-- ==== Sys2Proof/Word.lean ====
section
/-! DEFINITION. The widths of the machine (00_scope.md R5, R9): every value is an unsigned number of a stated width. -/

namespace Sys2Proof

/-- A byte: a general register, a timer, a memory cell, an immediate nn. -/
abbrev Byte := BitVec 8

/-- A 16-bit word: I, PC, a stack entry, an instruction word, the key mask. -/
abbrev Word := BitVec 16

/-- A 4-bit field of an instruction word. -/
abbrev Nibble := BitVec 4

/-- A 12-bit address field nnn. -/
abbrev Addr12 := BitVec 12

/-- One framebuffer row (10_state.md R30): column 0 is bit 63. -/
abbrev Row := BitVec 64

/-- The number of a general register V0 to VF (10_state.md R21). -/
abbrev Reg := Fin 16

/-- The number of a logical key, 0 to 15 (90_conflicts.md C6). -/
abbrev Key := Fin 16

/-- The framebuffer and a frame snapshot: 32 rows, row 0 at the top (10_state.md R30, 60_exceptions.md R274). -/
abbrev Frame := Vector Row 32

/-- The 80 bytes of the glyph ROM (20_memory.md R51, R57). -/
abbrev GlyphRom := Vector Byte 80

end Sys2Proof
end

