-- ==== Sys2Proof/Config.lean ====
section
/-! DEFINITION. The configuration inputs of the model (00_scope.md R7, R8) and the free values.
A parameter that R7 gives a default has it in `Config.defaults`.
SHIFT_SOURCE has none: its value there is an uninterpreted constant. -/

namespace Sys2Proof

/-- SHIFT_SOURCE (R7, R8, 42_alu.md R151): which register 8xy6 and 8xyE shift. -/
inductive ShiftSource where
  /-- shift V[x] in place and ignore y -/
  | vx
  /-- shift V[y] and write the result to V[x] -/
  | vy
deriving DecidableEq, Repr, Inhabited

/-- ZERO_FAMILY_KEY (R7, 30_encoding.md R87): the key of the 0x0 family. -/
inductive ZeroFamilyKey where
  /-- bits 11:0 select; the default -/
  | addr12
  /-- bits 7:0 select and bits 11:8 are ignored -/
  | low8
deriving DecidableEq, Repr, Inhabited

/-- KEYWAIT_STALE (R7, 46_io_timer.md R214): may a press already in KEYS.last end a key wait? -/
inductive KeywaitStale where
  /-- no; the default -/
  | ignore
  /-- it may, as a free choice of the schedule -/
  | mayAccept
deriving DecidableEq, Repr, Inhabited

/-- ON_FRAME_SEND_FAIL (R7, 44_draw.md R184): what a draw does when no frame receiver is live. -/
inductive OnFrameSendFail where
  /-- raise FrameChannelClosed; the default -/
  | fault
  /-- log FrameSendFailed and go on (`continue` in R7) -/
  | logAndContinue
deriving DecidableEq, Repr, Inhabited

/-- The configuration inputs of R7, but for RANDOM. They never change while the machine runs. -/
structure Params where
  shiftSource     : ShiftSource
  zeroFamilyKey   : ZeroFamilyKey
  keywaitStale    : KeywaitStale
  onFrameSendFail : OnFrameSendFail
  glyphRom        : GlyphRom
deriving DecidableEq, Repr

/-- The default bytes of GLYPH_ROM, one line of the table of 20_memory.md R57 each.
PRESUMED by the spec itself, "from general knowledge, not in source" (log entry 10). -/
def Config.glyphTable : List Byte :=
  [0xF0, 0x90, 0x90, 0x90, 0xF0] ++
  [0x20, 0x60, 0x20, 0x20, 0x70] ++
  [0xF0, 0x10, 0xF0, 0x80, 0xF0] ++
  [0xF0, 0x10, 0xF0, 0x10, 0xF0] ++
  [0x90, 0x90, 0xF0, 0x10, 0x10] ++
  [0xF0, 0x80, 0xF0, 0x10, 0xF0] ++
  [0xF0, 0x80, 0xF0, 0x90, 0xF0] ++
  [0xF0, 0x10, 0x20, 0x40, 0x40] ++
  [0xF0, 0x90, 0xF0, 0x90, 0xF0] ++
  [0xF0, 0x90, 0xF0, 0x10, 0xF0] ++
  [0xF0, 0x90, 0xF0, 0x90, 0x90] ++
  [0xE0, 0x90, 0xE0, 0x90, 0xE0] ++
  [0xF0, 0x80, 0x80, 0x80, 0xF0] ++
  [0xE0, 0x90, 0x90, 0x90, 0xE0] ++
  [0xF0, 0x80, 0xF0, 0x80, 0xF0] ++
  [0xF0, 0x80, 0xF0, 0x80, 0x80]

/-- The default GLYPH_ROM (R7, R57). -/
def Config.glyphRom : GlyphRom := ⟨⟨Config.glyphTable⟩, by decide⟩

/-- SHIFT_SOURCE at reset: R8 gives no default ("do not silently pick one"), so nothing constrains it (log entry 5). -/
opaque Config.shiftSource : ShiftSource

/-- RANDOM (R7, 43_index_jump_random.md R172, decision D26): the n-th draw of the oracle, a free value under no law
(log entry 6). -/
opaque Config.randomDraw : Nat → Byte

/-- The parameters of the reset state: the defaults of R7, and the uninterpreted SHIFT_SOURCE. -/
def Config.defaults : Params where
  shiftSource     := Config.shiftSource
  zeroFamilyKey   := .addr12
  keywaitStale    := .ignore
  onFrameSendFail := .fault
  glyphRom        := Config.glyphRom

end Sys2Proof
end

