-- ==== Sys2Proof/Syntax.lean ====
section
/-! DEFINITION. The instructions: one constructor per row of spec/opcode_table.json (30_encoding.md R86).
Operands have the widths of R82, so no constructor admits an operand that its field can not hold. -/

namespace Sys2Proof

/-- The 35 instructions of R86, in the table's order. -/
inductive Instr where
  /-- 0000: stop the machine (R100) -/
  | halt
  /-- 00E0: clear the framebuffer (R101) -/
  | cls
  /-- 00EE: return from subroutine (R102) -/
  | ret
  /-- 1nnn: jump (R103) -/
  | jp (nnn : Addr12)
  /-- 2nnn: call subroutine (R104) -/
  | call (nnn : Addr12)
  /-- 3xnn: skip if V[x] = nn (R105) -/
  | seImm (x : Reg) (nn : Byte)
  /-- 4xnn: skip if V[x] differs from nn (R106) -/
  | sneImm (x : Reg) (nn : Byte)
  /-- 5xy0: skip if V[x] = V[y] (R107) -/
  | seReg (x y : Reg)
  /-- 6xnn: load immediate (R130) -/
  | ldImm (x : Reg) (nn : Byte)
  /-- 7xnn: add immediate, no flag (R131) -/
  | addImm (x : Reg) (nn : Byte)
  /-- 8xy0: copy register (R141) -/
  | ldReg (x y : Reg)
  /-- 8xy1: bitwise or (R142) -/
  | orReg (x y : Reg)
  /-- 8xy2: bitwise and (R143) -/
  | andReg (x y : Reg)
  /-- 8xy3: bitwise exclusive or (R144) -/
  | xorReg (x y : Reg)
  /-- 8xy4: add with carry (R146) -/
  | addReg (x y : Reg)
  /-- 8xy5: V[x] minus V[y] (R147) -/
  | subReg (x y : Reg)
  /-- 8xy6: shift right by one (R148) -/
  | shr (x y : Reg)
  /-- 8xy7: V[y] minus V[x] (R149) -/
  | subn (x y : Reg)
  /-- 8xyE: shift left by one (R150) -/
  | shl (x y : Reg)
  /-- 9xy0: skip if V[x] differs from V[y] (R108) -/
  | sneReg (x y : Reg)
  /-- Annn: load the index register (R170) -/
  | ldI (nnn : Addr12)
  /-- Bnnn: jump to nnn + V0 (R171) -/
  | jpV0 (nnn : Addr12)
  /-- Cxnn: random byte under a mask (R172) -/
  | rnd (x : Reg) (nn : Byte)
  /-- Dxyn: XOR an n-byte sprite onto the framebuffer (R180) -/
  | drw (x y : Reg) (n : Nibble)
  /-- Ex9E: skip if the key V[x] is pressed (R200) -/
  | skp (x : Reg)
  /-- ExA1: skip if the key V[x] is not pressed (R201) -/
  | sknp (x : Reg)
  /-- Fx07: read the delay timer (R211) -/
  | ldVxDT (x : Reg)
  /-- Fx0A: wait for a key press (R212) -/
  | ldVxK (x : Reg)
  /-- Fx15: set the delay timer (R215) -/
  | ldDTVx (x : Reg)
  /-- Fx18: set the sound timer (R216) -/
  | ldSTVx (x : Reg)
  /-- Fx1E: add to the index register (R217) -/
  | addI (x : Reg)
  /-- Fx29: point I at a glyph (R218) -/
  | ldF (x : Reg)
  /-- Fx33: store the decimal digits of V[x] (R219) -/
  | ldB (x : Reg)
  /-- Fx55: store all sixteen registers; x is decoded and not used (R220, R88) -/
  | stRegs (x : Reg)
  /-- Fx65: load all sixteen registers; x is decoded and not used (R221, R88) -/
  | ldRegs (x : Reg)
deriving DecidableEq, Repr

end Sys2Proof
end

