-- ==== Sys2Proof/Decode.lean ====
section
/-! DEFINITION. The fields of an instruction word (30_encoding.md R81), the decoder (R84 to R89), total on every word and on
every byte list, and the encoder, both from the opcode map of R86. -/

namespace Sys2Proof

/-- Why no instruction was read. The first constructor is for a byte list too short to hold a word; the others name the six
spaces of illegal words of R89. -/
inductive Reject where
  | truncated
  | illegalZeroFamily (w : Word)
  | illegalFiveFamily (w : Word)
  | illegalAluFamily (w : Word)
  | illegalNineFamily (w : Word)
  | illegalKeyFamily (w : Word)
  | illegalIoFamily (w : Word)
deriving DecidableEq, Repr

/-! ### Fields (R81) -/

/-- mode = w[15:12] -/
def fieldMode (w : Word) : Nibble := w.extractLsb' 12 4
/-- x = w[11:8] -/
def fieldX (w : Word) : Nibble := w.extractLsb' 8 4
/-- y = w[7:4] -/
def fieldY (w : Word) : Nibble := w.extractLsb' 4 4
/-- z = w[3:0] -/
def fieldZ (w : Word) : Nibble := w.extractLsb' 0 4
/-- num = w[7:0] -/
def fieldNum (w : Word) : Byte := w.extractLsb' 0 8
/-- addr = w[11:0] -/
def fieldAddr (w : Word) : Addr12 := w.extractLsb' 0 12

/-- The register that a 4-bit field names (R82). -/
def regOf (f : Nibble) : Reg := ⟨f.toNat, f.isLt⟩

/-- V[x] of a word. -/
def regX (w : Word) : Reg := regOf (fieldX w)
/-- V[y] of a word. -/
def regY (w : Word) : Reg := regOf (fieldY w)

/-! ### Decoding -/

/-- The 0x0 family (R87): keyed on addr, or on num alone with ZERO_FAMILY_KEY = low8. -/
def decodeZeroFamily (key : ZeroFamilyKey) (w : Word) : Except Reject Instr :=
  let sel : Addr12 := match key with
    | .addr12 => fieldAddr w
    | .low8   => (fieldNum w).setWidth 12
  if sel = 0x000 then .ok .halt
  else if sel = 0x0E0 then .ok .cls
  else if sel = 0x0EE then .ok .ret
  else .error (.illegalZeroFamily w)

/-- The 8xyz family, keyed on z (42_alu.md R140, 90_conflicts.md C14). -/
def decodeAluFamily (w : Word) : Except Reject Instr :=
  if fieldZ w = 0x0 then .ok (.ldReg (regX w) (regY w))
  else if fieldZ w = 0x1 then .ok (.orReg (regX w) (regY w))
  else if fieldZ w = 0x2 then .ok (.andReg (regX w) (regY w))
  else if fieldZ w = 0x3 then .ok (.xorReg (regX w) (regY w))
  else if fieldZ w = 0x4 then .ok (.addReg (regX w) (regY w))
  else if fieldZ w = 0x5 then .ok (.subReg (regX w) (regY w))
  else if fieldZ w = 0x6 then .ok (.shr (regX w) (regY w))
  else if fieldZ w = 0x7 then .ok (.subn (regX w) (regY w))
  else if fieldZ w = 0xE then .ok (.shl (regX w) (regY w))
  else .error (.illegalAluFamily w)

/-- The Exnn family, keyed on num (R86). -/
def decodeKeyFamily (w : Word) : Except Reject Instr :=
  if fieldNum w = 0x9E then .ok (.skp (regX w))
  else if fieldNum w = 0xA1 then .ok (.sknp (regX w))
  else .error (.illegalKeyFamily w)

/-- The Fxnn family, keyed on num (46_io_timer.md R210). -/
def decodeIoFamily (w : Word) : Except Reject Instr :=
  if fieldNum w = 0x07 then .ok (.ldVxDT (regX w))
  else if fieldNum w = 0x0A then .ok (.ldVxK (regX w))
  else if fieldNum w = 0x15 then .ok (.ldDTVx (regX w))
  else if fieldNum w = 0x18 then .ok (.ldSTVx (regX w))
  else if fieldNum w = 0x1E then .ok (.addI (regX w))
  else if fieldNum w = 0x29 then .ok (.ldF (regX w))
  else if fieldNum w = 0x33 then .ok (.ldB (regX w))
  else if fieldNum w = 0x55 then .ok (.stRegs (regX w))
  else if fieldNum w = 0x65 then .ok (.ldRegs (regX w))
  else .error (.illegalIoFamily w)

/-- The two-level match of R85: mode selects the family. The last case is mode 0xF, the one value left. -/
def decodeWord (key : ZeroFamilyKey) (w : Word) : Except Reject Instr :=
  if fieldMode w = 0x0 then decodeZeroFamily key w
  else if fieldMode w = 0x1 then .ok (.jp (fieldAddr w))
  else if fieldMode w = 0x2 then .ok (.call (fieldAddr w))
  else if fieldMode w = 0x3 then .ok (.seImm (regX w) (fieldNum w))
  else if fieldMode w = 0x4 then .ok (.sneImm (regX w) (fieldNum w))
  else if fieldMode w = 0x5 then
    if fieldZ w = 0x0 then .ok (.seReg (regX w) (regY w)) else .error (.illegalFiveFamily w)
  else if fieldMode w = 0x6 then .ok (.ldImm (regX w) (fieldNum w))
  else if fieldMode w = 0x7 then .ok (.addImm (regX w) (fieldNum w))
  else if fieldMode w = 0x8 then decodeAluFamily w
  else if fieldMode w = 0x9 then
    if fieldZ w = 0x0 then .ok (.sneReg (regX w) (regY w)) else .error (.illegalNineFamily w)
  else if fieldMode w = 0xA then .ok (.ldI (fieldAddr w))
  else if fieldMode w = 0xB then .ok (.jpV0 (fieldAddr w))
  else if fieldMode w = 0xC then .ok (.rnd (regX w) (fieldNum w))
  else if fieldMode w = 0xD then .ok (.drw (regX w) (regY w) (fieldZ w))
  else if fieldMode w = 0xE then decodeKeyFamily w
  else decodeIoFamily w

/-- The word of two bytes, the first at the lower address: big-endian (20_memory.md R60, R61). -/
def wordOfBytes (hi lo : Byte) : Word := hi ++ lo

/-- The first instruction of a byte list, and the bytes after it. Every instruction is two bytes long (R80). -/
def decodeBytes (key : ZeroFamilyKey) : List Byte → Except Reject (Instr × List Byte)
  | hi :: lo :: rest =>
    match decodeWord key (wordOfBytes hi lo) with
    | .ok i    => .ok (i, rest)
    | .error r => .error r
  | _ => .error .truncated

/-! ### Encoding (R81, R86) -/

/-- The field that names a register. -/
def regBits (x : Reg) : Nibble := BitVec.ofNat 4 x.val

/-- A word mode, addr. -/
def wordAddr (mode : Nibble) (nnn : Addr12) : Word := mode ++ nnn
/-- A word mode, x, num. -/
def wordImm (mode : Nibble) (x : Reg) (nn : Byte) : Word := mode ++ (regBits x ++ nn)
/-- A word mode, x, y, z. -/
def wordReg (mode : Nibble) (x y : Reg) (z : Nibble) : Word := mode ++ (regBits x ++ (regBits y ++ z))

/-- The word of an instruction: its row of R86 with its operands in their fields. -/
def encode : Instr → Word
  | .halt        => 0x0000
  | .cls         => 0x00E0
  | .ret         => 0x00EE
  | .jp nnn      => wordAddr 0x1 nnn
  | .call nnn    => wordAddr 0x2 nnn
  | .seImm x nn  => wordImm 0x3 x nn
  | .sneImm x nn => wordImm 0x4 x nn
  | .seReg x y   => wordReg 0x5 x y 0x0
  | .ldImm x nn  => wordImm 0x6 x nn
  | .addImm x nn => wordImm 0x7 x nn
  | .ldReg x y   => wordReg 0x8 x y 0x0
  | .orReg x y   => wordReg 0x8 x y 0x1
  | .andReg x y  => wordReg 0x8 x y 0x2
  | .xorReg x y  => wordReg 0x8 x y 0x3
  | .addReg x y  => wordReg 0x8 x y 0x4
  | .subReg x y  => wordReg 0x8 x y 0x5
  | .shr x y     => wordReg 0x8 x y 0x6
  | .subn x y    => wordReg 0x8 x y 0x7
  | .shl x y     => wordReg 0x8 x y 0xE
  | .sneReg x y  => wordReg 0x9 x y 0x0
  | .ldI nnn     => wordAddr 0xA nnn
  | .jpV0 nnn    => wordAddr 0xB nnn
  | .rnd x nn    => wordImm 0xC x nn
  | .drw x y n   => wordReg 0xD x y n
  | .skp x       => wordImm 0xE x 0x9E
  | .sknp x      => wordImm 0xE x 0xA1
  | .ldVxDT x    => wordImm 0xF x 0x07
  | .ldVxK x     => wordImm 0xF x 0x0A
  | .ldDTVx x    => wordImm 0xF x 0x15
  | .ldSTVx x    => wordImm 0xF x 0x18
  | .addI x      => wordImm 0xF x 0x1E
  | .ldF x       => wordImm 0xF x 0x29
  | .ldB x       => wordImm 0xF x 0x33
  | .stRegs x    => wordImm 0xF x 0x55
  | .ldRegs x    => wordImm 0xF x 0x65

/-- The two bytes of a word as memory holds them, the high byte at the lower address (20_memory.md R61). -/
def bytesOfWord (w : Word) : List Byte := [w.extractLsb' 8 8, w.extractLsb' 0 8]

/-- The host's reading of a table row: bits numbered as spec/opcode_table.json numbers them, the word laid out big-endian and
given to the decoder with the default ZERO_FAMILY_KEY (R7, R87). Every row is one 16-bit word, so the bits above nbits, and
above 16, are 0. -/
def decodeTableWord (nbits w : Nat) : Option Instr :=
  match decodeBytes .addr12 (bytesOfWord (BitVec.ofNat 16 (w % 2 ^ nbits))) with
  | .ok (i, _) => some i
  | .error _   => none

end Sys2Proof
end

