-- ==== Sys2Proof/Machine/Flags.lean ====
section
/-! DEFINITION. What the flag register VF receives (10_state.md R22): every flag is the byte 1 or 0. -/

namespace Sys2Proof.Machine

/-- The byte of a flag. -/
def flagByte (c : Bool) : Byte := if c then 1 else 0

/-- 8xy4: 1 exactly when the exact sum exceeds 255 (42_alu.md R145, R146). -/
def carryFlag (a b : Byte) : Byte := flagByte (decide (a.toNat + b.toNat > 255))

/-- 8xy5 and 8xy7: 1 exactly when the minuend is strictly greater than the subtrahend (R145, R147, R149). -/
def greaterFlag (a b : Byte) : Byte := flagByte (decide (a.toNat > b.toNat))

/-- 8xy6: bit 0 of the operand (R148). -/
def lowBitFlag (a : Byte) : Byte := a &&& 0x01

/-- 8xyE: bit 7 of the operand (R150). -/
def highBitFlag (a : Byte) : Byte := (a >>> 7) &&& 0x01

/-- Dxyn, for one row: does the mask meet a lit pixel? A lit pixel under the mask is erased (44_draw.md R183). -/
def rowCollides (old mask : Row) : Bool := (old &&& mask) != 0

end Sys2Proof.Machine
end

