-- ==== Sys2Proof/Machine/Memory.lean ====
section
/-! DEFINITION. MEM as a list of cells in one canonical form (20_memory.md R50, R51): what an unlisted address reads as, the
read and the write of one byte (R62), and the write of consecutive bytes in address order (R61). -/

namespace Sys2Proof.Machine

/-- What an address that is not listed reads as: the initial image without a ROM (70_reset_and_hazards.md R301): the glyph ROM
below 0x050 and zero above it. -/
def Memory.unlisted (rom : GlyphRom) (a : Nat) : Byte := if h : a < 80 then rom[a] else 0

/-- The byte listed for an address, if there is one. -/
def Memory.lookup : List Host.Cell → Nat → Option Byte
  | [], _ => none
  | (k, b) :: m, a => if k = a then some b else Memory.lookup m a

/-- The byte at an address. -/
def Memory.read (rom : GlyphRom) (m : List Host.Cell) (a : Nat) : Byte :=
  (Memory.lookup m a).getD (Memory.unlisted rom a)

/-- List a byte at an address, keeping the addresses in rising order. -/
def Memory.put : List Host.Cell → Nat → Byte → List Host.Cell
  | [], a, b => [(a, b)]
  | (k, c) :: m, a, b =>
    if a < k then (a, b) :: (k, c) :: m
    else if a = k then (a, b) :: m
    else (k, c) :: Memory.put m a b

/-- Take an address off the list. -/
def Memory.erase : List Host.Cell → Nat → List Host.Cell
  | [], _ => []
  | (k, c) :: m, a => if k = a then Memory.erase m a else (k, c) :: Memory.erase m a

/-- Write one byte: writing what the unlisted address reads as takes the entry off the list. -/
def Memory.write (rom : GlyphRom) (m : List Host.Cell) (a : Nat) (b : Byte) : List Host.Cell :=
  if b = Memory.unlisted rom a then Memory.erase m a else Memory.put m a b

/-- Write consecutive bytes, the first at the lowest address, in increasing order. -/
def Memory.writeBytes (rom : GlyphRom) : List Host.Cell → Nat → List Byte → List Host.Cell
  | m, _, [] => m
  | m, a, b :: bs => Memory.writeBytes rom (Memory.write rom m a b) (a + 1) bs

/-- The n bytes at a, a + 1, ..., a + n - 1 (44_draw.md R181). -/
def Memory.readBytes (rom : GlyphRom) (m : List Host.Cell) (a : Nat) : Nat → List Byte
  | 0 => []
  | n + 1 => Memory.read rom m a :: Memory.readBytes rom m (a + 1) n

/-- The addresses of a list of cells rise strictly, from `lo` on. -/
def Memory.rising : Nat → List Host.Cell → Bool
  | _, [] => true
  | lo, (k, _) :: m => decide (lo ≤ k) && Memory.rising (k + 1) m

/-- The canonical form: addresses strictly rising, all of them writable (20_memory.md R51, R63, R64: 0x050 to 0xFFF), and no
entry equal to what its address reads as unlisted. -/
def Memory.wf (rom : GlyphRom) (m : List Host.Cell) : Bool :=
  Memory.rising 0x50 m && m.all (fun c => decide (c.1 < 4096) && decide (c.2 ≠ Memory.unlisted rom c.1))

end Sys2Proof.Machine
end

