-- ==== Sys2Proof/Machine/State.lean ====
section
/-! DEFINITION. The machine's state (10_state.md R20) as plain data, the reasons a run can stop, and the state at reset (R37). -/

namespace Sys2Proof.Machine

/-- The fault codes of 60_exceptions.md R242, in the order of their numbers 1 to 10. Raising one is a NEXT state of the model,
with `RunState.faulted` (R241, log entry 1). -/
inductive FaultCode where
  /-- 1: every step, PC > 0xFFE -/
  | fetchOutOfRange
  /-- 2: Dxyn, Fx65 -/
  | memReadOutOfRange
  /-- 3: Fx33, Fx55 -/
  | memWriteOutOfRange
  /-- 4: Fx33, Fx55, I < 0x050 -/
  | glyphRegionWrite
  /-- 5: Dxyn, a row beyond 31 -/
  | drawRowOutOfRange
  /-- 6: Dxyn, V[x] > 63 -/
  | drawColumnOutOfRange
  /-- 7: 2nnn, SP = 16 -/
  | stackOverflow
  /-- 8: 00EE, SP = 0 -/
  | stackUnderflow
  /-- 9: Ex9E, ExA1, V[x] > 15 -/
  | keyIndexOutOfRange
  /-- 10: Dxyn, no live frame receiver, only with ON_FRAME_SEND_FAIL = fault -/
  | frameChannelClosed
deriving DecidableEq, Repr

/-- RUN (10_state.md R32). -/
inductive RunState where
  | running
  /-- an Fx0A with register field x is suspended (46_io_timer.md R212) -/
  | waiting (x : Reg)
  | halted
  | faulted (code : FaultCode)
  | stopped
deriving DecidableEq, Repr

/-- KEYS.last's value once there is one: the most recent key transition (10_state.md R31). -/
structure KeyTransition where
  index   : Key
  pressed : Bool
deriving DecidableEq, Repr

/-- The shared key cell KEYS (10_state.md R31). -/
structure KeyCell where
  mask : Word
  last : Option KeyTransition
deriving DecidableEq, Repr

/-- A key event of the input collaborator (60_exceptions.md R271). -/
structure KeyEvent where
  index        : Key
  pressed      : Bool
  bitmaskAfter : Word
deriving DecidableEq, Repr

/-- The log records of 60_exceptions.md R276 (abstract: decision D25). -/
inductive LogRecord where
  | loadConfirmation (len : Nat)
  | haltNotice (pc : Word)
  | decodeFailure (pc word : Word)
  | faultReport (code : FaultCode) (pc : Word)
  | frameSendFailed (pc : Word)
deriving DecidableEq, Repr

/-- What may happen next at a step boundary (60_exceptions.md R278), and the choice R214 leaves open. -/
inductive Event where
  /-- the core's turn: an instruction step if RUN = Running (30_encoding.md R84) -/
  | core
  /-- the timer tick (R260) -/
  | tick
  /-- the input collaborator applies a key event (R271) -/
  | key (e : KeyEvent)
  /-- a waiting core takes up the press that KEYS.last holds; only with KEYWAIT_STALE = may_accept (46_io_timer.md R214) -/
  | acceptStalePress
  /-- the frame consumer terminates: FRAME_RX_LIVE goes to false (R275) -/
  | frameRxLost
  /-- the log sink's receiver goes away (R275, log entry 15) -/
  | logRxLost
  /-- the host cancels the run (R277) -/
  | hostStop
deriving DecidableEq, Repr

/-- The state of R20, FRAME_RX_LIVE of R275, and the model's own fields (INVENTORY.md). -/
structure State where
  /-- V[0..15]; V[15] = VF -/
  v           : Vector Byte 16
  /-- the index register I -/
  i           : Word
  pc          : Word
  /-- the number of stack entries in use, 0 to 16 -/
  sp          : Fin 17
  stack       : Vector Word 16
  /-- the delay timer -/
  dt          : Byte
  /-- the sound timer -/
  st          : Byte
  /-- the bytes of MEM that differ from the initial image, by address (`Memory.wf`) -/
  mem         : List Host.Cell
  fb          : Frame
  keys        : KeyCell
  run         : RunState
  /-- FRAMES, oldest first -/
  frames      : List Frame
  /-- LOG, oldest first -/
  log         : List LogRecord
  /-- FRAME_RX_LIVE -/
  frameRxLive : Bool
  /-- the model's own: the log stream has a live receiver (log entry 15) -/
  logRxLive   : Bool
  /-- the model's own: the configuration inputs of 00_scope.md R7, never written (log entry 4) -/
  cfg         : Params
  /-- the model's own: how many RANDOM draws have been taken (log entry 6) -/
  draws       : Nat
  /-- the model's own: the events to come, the next one first; when it is empty the core has every turn (log entry 3) -/
  sched       : List Event
deriving DecidableEq, Repr

/-- The reasons for which there is no next state at all: the two load-time failures (70_reset_and_hazards.md R303, R304).
No instruction and no step raises one: a fault of R242 is a state, `RunState.faulted` (log entries 1 and 16). -/
inductive Fault where
  /-- raised by `boot` when the ROM file can not be read (R300 step 1, R304). Safe: no instruction executes. -/
  | romUnreadable
  /-- raised by `boot` when the ROM is longer than 3584 bytes (R300 step 2, R303). Safe: no instruction executes. -/
  | romTooLarge
deriving DecidableEq, Repr

/-- Refusals. Every instruction of the opcode table has its meaning, so none is raised. -/
inductive Refusal where
  /-- raised by an arm of `exec` for an instruction without a meaning; there is none. Safe: the machine stops. -/
  | notModelled (mnemonic : String)
deriving DecidableEq, Repr

/-- The state at reset (R37) under given configuration inputs, before a ROM is loaded: MEM holds the glyphs and zeros, which
is what memory with nothing listed reads as. -/
def State.resetWith (p : Params) : State where
  v           := Vector.replicate 16 0
  i           := 0
  pc          := 0x200
  sp          := 0
  stack       := Vector.replicate 16 0
  dt          := 0
  st          := 0
  mem         := []
  fb          := Vector.replicate 32 0
  keys        := { mask := 0, last := none }
  run         := .running
  frames      := []
  log         := []
  frameRxLive := true
  logRxLive   := true
  cfg         := p
  draws       := 0
  sched       := []

/-- The state at reset (R37), with the default configuration inputs of 00_scope.md R7. -/
def State.reset : State := State.resetWith Config.defaults

end Sys2Proof.Machine
end

