-- ==== Sys2Proof/Machine/Operands.lean ====
section
/-! DEFINITION. The operand forms: a register (30_encoding.md R82), the operand of the shifts (42_alu.md R151), a byte of
memory (20_memory.md R62), the sprite mask (44_draw.md R182), the decimal digits (46_io_timer.md R219), the glyph address
(R218), and zero extension (00_scope.md R9). -/

namespace Sys2Proof.Machine

/-- V[x]: no register is hardwired (10_state.md R21). -/
def State.reg (s : State) (x : Reg) : Byte := s.v[x.val]

/-- VF = V[15], the flag register (10_state.md R22). -/
abbrev vf : Reg := 15

/-- MemRead(a, 1) of 00_scope.md R11. The instructions check their range first (20_memory.md R63), so no address at or above
4096 is ever read. -/
def State.readByte (s : State) (a : Nat) : Byte := Memory.read s.cfg.glyphRom s.mem a

/-- zext_16 of a byte. -/
def zext16 (b : Byte) : Word := b.setWidth 16

/-- zext_16 of an address field (30_encoding.md R82). -/
def addrWord (nnn : Addr12) : Word := nnn.setWidth 16

/-- The byte that 8xy6 and 8xyE shift (42_alu.md R151). The two values of SHIFT_SOURCE give the same operand when x = y, so
the parameter is consulted only when x and y differ. -/
def State.shiftOperand (s : State) (x y : Reg) : Byte :=
  if x = y then s.reg x
  else match s.cfg.shiftSource with
    | .vx => s.reg x
    | .vy => s.reg y

/-- A sprite byte on its row: left-aligned, then shifted right by the column (44_draw.md R182). -/
def spriteMask (b : Byte) (cx : Byte) : Row := (b.setWidth 64 <<< 56) >>> cx.toNat

/-- The hundreds, tens and units digits of a byte (46_io_timer.md R219). -/
def bcdDigits (b : Byte) : List Byte :=
  [BitVec.ofNat 8 (b.toNat / 100), BitVec.ofNat 8 (b.toNat / 10 % 10), BitVec.ofNat 8 (b.toNat % 10)]

/-- The address of the glyph of a byte's low nibble: 5 bytes a glyph (46_io_timer.md R218, 20_memory.md R57). -/
def glyphAddress (b : Byte) : Word := zext16 (b &&& 0x0F) * 5

/-- The pixel at a row and column (10_state.md R30): column 0 is the most significant bit. False outside the 32 x 64 pixels. -/
def pixel (f : Frame) (row col : Nat) : Bool :=
  if h : row < 32 then decide (col < 64) && f[row].getLsbD (63 - col) else false

/-- Row r of the framebuffer; a draw checks its rows first, so no row beyond 31 is ever read (44_draw.md R185). -/
def fbRow (f : Frame) (r : Nat) : Row := if h : r < 32 then f[r] else 0

/-- The framebuffer with row r written. -/
def fbSetRow (f : Frame) (r : Nat) (w : Row) : Frame := if h : r < 32 then f.set r w else f

end Sys2Proof.Machine
end

