-- ==== Sys2Proof/Machine/Ops.lean ====
section
/-! DEFINITION. The named operations over registers, memory and the output streams (00_scope.md R11), the fetch (20_memory.md
R60), raising a fault (60_exceptions.md R241) and the decode failure (R244).
There is no return from a fault: no handler runs inside the machine (R247, R248). -/

namespace Sys2Proof.Machine

/-! ### Registers -/

/-- V[x] <- b. -/
def State.setReg (s : State) (x : Reg) (b : Byte) : State := { s with v := s.v.set x.val b }

/-- I <- w. -/
def State.setI (s : State) (w : Word) : State := { s with i := w }

/-- PC <- w. -/
def State.setPc (s : State) (w : Word) : State := { s with pc := w }

/-- DT <- b. -/
def State.setDt (s : State) (b : Byte) : State := { s with dt := b }

/-- ST <- b. -/
def State.setSt (s : State) (b : Byte) : State := { s with st := b }

/-- RUN <- r. -/
def State.setRun (s : State) (r : RunState) : State := { s with run := r }

/-- FB <- f. -/
def State.setFb (s : State) (f : Frame) : State := { s with fb := f }

/-- All sixteen registers at once (46_io_timer.md R221). -/
def State.setAllRegs (s : State) (w : Vector Byte 16) : State := { s with v := w }

/-- Fallthrough: PC <- PC + 2 (10_state.md R24). -/
def State.advance (s : State) : State := s.setPc (s.pc + 2)

/-- Skip: PC <- PC + 4 when the condition holds, else PC + 2 (10_state.md R24). -/
def State.skipIf (s : State) (c : Bool) : State := s.setPc (if c then s.pc + 4 else s.pc + 2)

/-! ### Stack (10_state.md R26, R27) -/

/-- STACK[SP] <- w, then SP <- SP + 1, for an SP below 16. -/
def State.push (s : State) (w : Word) (_h : s.sp.val < 16) : State :=
  { s with stack := s.stack.set s.sp.val w, sp := ⟨s.sp.val + 1, by omega⟩ }

/-- SP <- SP - 1. The entry keeps its value (40_flow.md R102). -/
def State.pop (s : State) : State := { s with sp := ⟨s.sp.val - 1, by omega⟩ }

/-- The entry that a pop reads: STACK[SP - 1], for an SP above 0. -/
def State.top (s : State) : Word := s.stack[s.sp.val - 1]

/-! ### Memory -/

/-- Write consecutive bytes from address a on, in increasing order. -/
def State.storeBytes (s : State) (a : Nat) (bs : List Byte) : State :=
  { s with mem := Memory.writeBytes s.cfg.glyphRom s.mem a bs }

/-- The n bytes from address a on. -/
def State.loadBytes (s : State) (a n : Nat) : List Byte := Memory.readBytes s.cfg.glyphRom s.mem a n

/-- The address Fx33 and Fx55 store their first byte to: I, with no reduction (20_memory.md R63). -/
def State.storeAddr (s : State) : Nat := s.i.toNat

/-- The check of an access to the bytes [a, a + len), on the exact sum (20_memory.md R63). -/
def outOfRange (a len : Nat) : Bool := decide (a + len > 4096)

/-! ### Output streams -/

/-- Log(record): append a record, or drop it when the log stream has no live receiver (60_exceptions.md R275, R276). -/
def State.emitLog (s : State) (r : LogRecord) : State :=
  { s with log := if s.logRxLive then s.log ++ [r] else s.log }

/-- EmitFrame() with a live receiver: append a copy of all 32 rows (60_exceptions.md R274). -/
def State.emitFrame (s : State) : State := { s with frames := s.frames ++ [s.fb] }

/-! ### Faults and decode failures -/

/-- raise Fault(code): RUN <- Faulted(code), PC stays at the faulting instruction, and a FaultReport is logged
(60_exceptions.md R241). -/
def State.raiseFault (s : State) (code : FaultCode) : State :=
  (s.setRun (.faulted code)).emitLog (.faultReport code s.pc)

/-- The number of a fault code (60_exceptions.md R242, decision D20). -/
def FaultCode.number : FaultCode → Nat
  | .fetchOutOfRange      => 1
  | .memReadOutOfRange    => 2
  | .memWriteOutOfRange   => 3
  | .glyphRegionWrite     => 4
  | .drawRowOutOfRange    => 5
  | .drawColumnOutOfRange => 6
  | .stackOverflow        => 7
  | .stackUnderflow       => 8
  | .keyIndexOutOfRange   => 9
  | .frameChannelClosed   => 10

/-- DecodeFailure(w): logged, then PC + 2, still Running (60_exceptions.md R244). -/
def State.decodeFailure (s : State) (w : Word) : State := (s.emitLog (.decodeFailure s.pc w)).advance

/-! ### Fetch and RANDOM -/

/-- Fetch(PC): two bytes, big-endian, or nothing when PC > 0xFFE (20_memory.md R60). -/
def State.fetch (s : State) : Option Word :=
  if s.pc.toNat + 1 > 0xFFF then none
  else some (wordOfBytes (s.readByte s.pc.toNat) (s.readByte (s.pc.toNat + 1)))

/-- Random(): the draw that comes next (00_scope.md R11). -/
def State.nextDraw (s : State) : Byte := Config.randomDraw s.draws

/-- The draw has been taken. -/
def State.takeDraw (s : State) : State := { s with draws := s.draws + 1 }

/-! ### Placing an instruction (the host's test access, log entry 19) -/

/-- Set one byte of the image: of the glyph ROM below 0x050, of the listed memory above it. No instruction does this. -/
def State.pokeByte (s : State) (a : Nat) (b : Byte) : State :=
  if h : a < 80 then { s with cfg := { s.cfg with glyphRom := s.cfg.glyphRom.set a b } }
  else s.storeBytes a [b]

/-- Place a word where the next step fetches: at PC (at 0x200 when PC is out of range), with RUN = Running and no event
before the core's turn. -/
def State.placeWord (s : State) (w : Word) : State :=
  let pc : Word := if s.pc.toNat + 1 > 0xFFF then 0x200 else s.pc
  let s := { s with pc := pc, run := .running, sched := [] }
  (s.pokeByte pc.toNat (w.extractLsb' 8 8)).pokeByte (pc.toNat + 1) (w.extractLsb' 0 8)

end Sys2Proof.Machine
end

