-- ==== Sys2Proof/Machine/Boot.lean ====
section
/-! DEFINITION. Boot, the only reset (70_reset_and_hazards.md R300 to R304): how a program comes to run (log entry 16). -/

namespace Sys2Proof.Machine

/-- The state after boot of a ROM that fits: the reset state (10_state.md R37), the ROM at 0x200 (R301), and a
LoadConfirmation in the log (R300, R302). -/
def State.booted (p : Params) (rom : List Byte) : State :=
  ((State.resetWith p).storeBytes 0x200 rom).emitLog (.loadConfirmation rom.length)

/-- Boot: `none` is a ROM file that can not be read. A load failure leaves no state: the core never starts (R303, R304). -/
def boot (p : Params) (rom : Option (List Byte)) : Host.Outcome State Fault Refusal :=
  match rom with
  | none => .fault .romUnreadable
  | some bytes => if bytes.length > 3584 then .fault .romTooLarge else .next (State.booted p bytes)

end Sys2Proof.Machine
end

