-- ==== Sys2Proof/Machine/Flow.lean ====
section
/-! DEFINITION. Control flow: the 0x0 family, jumps, call, and the skips on registers (40_flow.md R100 to R108). -/

namespace Sys2Proof.Machine

/-- The three outcomes of a step of this machine. -/
abbrev StepOutcome := Host.Outcome State Fault Refusal

/-- 0000 HALT (R100): a HaltNotice, then Halted; PC is unchanged (decision D17). -/
def execHalt (s : State) : StepOutcome := .next ((s.emitLog (.haltNotice s.pc)).setRun .halted)

/-- 00E0 CLS (R101): every row to zero; no frame is emitted. -/
def execCls (s : State) : StepOutcome := .next (s.setFb (Vector.replicate 32 0)).advance

/-- 00EE RET (R102): pop, and go on after the call; StackUnderflow when SP = 0 (decision D7). -/
def execRet (s : State) : StepOutcome :=
  if s.sp.val = 0 then .next (s.raiseFault .stackUnderflow)
  else .next (s.pop.setPc (s.top + 2))

/-- 1nnn JP (R103). -/
def execJp (nnn : Addr12) (s : State) : StepOutcome := .next (s.setPc (addrWord nnn))

/-- 2nnn CALL (R104): push the call's own address; StackOverflow when SP = 16 (decision D7). -/
def execCall (nnn : Addr12) (s : State) : StepOutcome :=
  if h : s.sp.val < 16 then .next ((s.push s.pc h).setPc (addrWord nnn))
  else .next (s.raiseFault .stackOverflow)

/-- 3xnn SE (R105). -/
def execSeImm (x : Reg) (nn : Byte) (s : State) : StepOutcome := .next (s.skipIf (decide (s.reg x = nn)))

/-- 4xnn SNE (R106). -/
def execSneImm (x : Reg) (nn : Byte) (s : State) : StepOutcome := .next (s.skipIf (decide (s.reg x ≠ nn)))

/-- 5xy0 SE (R107). -/
def execSeReg (x y : Reg) (s : State) : StepOutcome := .next (s.skipIf (decide (s.reg x = s.reg y)))

/-- 9xy0 SNE (R108). -/
def execSneReg (x y : Reg) (s : State) : StepOutcome := .next (s.skipIf (decide (s.reg x ≠ s.reg y)))

end Sys2Proof.Machine
end

