-- ==== Sys2Proof/Machine/Alu.lean ====
section
/-! DEFINITION. Arithmetic and logic (42_alu.md R140 to R151). Operands are read before any write; the flag is written last by
8xy4 and first by 8xy5, 8xy6, 8xy7 and 8xyE (R140, decision D10), which decides VF only when x = 0xF. -/

namespace Sys2Proof.Machine

/-- The family's two orders of writing a result and a flag. -/
def State.writeThenFlag (s : State) (x : Reg) (result flag : Byte) : State := (s.setReg x result).setReg vf flag
/-- Flag first, result last: with x = 0xF, VF ends as the result. -/
def State.flagThenWrite (s : State) (x : Reg) (flag result : Byte) : State := (s.setReg vf flag).setReg x result

/-- 8xy0 LD (R141). -/
def execLdReg (x y : Reg) (s : State) : StepOutcome := .next (s.setReg x (s.reg y)).advance

/-- 8xy1 OR (R142); VF is not reset. -/
def execOr (x y : Reg) (s : State) : StepOutcome := .next (s.setReg x (s.reg x ||| s.reg y)).advance

/-- 8xy2 AND (R143); VF is not reset. -/
def execAnd (x y : Reg) (s : State) : StepOutcome := .next (s.setReg x (s.reg x &&& s.reg y)).advance

/-- 8xy3 XOR (R144); VF is not reset. -/
def execXor (x y : Reg) (s : State) : StepOutcome := .next (s.setReg x (s.reg x ^^^ s.reg y)).advance

/-- 8xy4 ADD (R146): VF = carry, written after V[x]. -/
def execAddReg (x y : Reg) (s : State) : StepOutcome :=
  .next (s.writeThenFlag x (s.reg x + s.reg y) (carryFlag (s.reg x) (s.reg y))).advance

/-- 8xy5 SUB (R147): VF = 1 iff V[x] > V[y], written before V[x]. -/
def execSub (x y : Reg) (s : State) : StepOutcome :=
  .next (s.flagThenWrite x (greaterFlag (s.reg x) (s.reg y)) (s.reg x - s.reg y)).advance

/-- 8xy6 SHR (R148): VF = the bit shifted out, written before V[x]. -/
def execShr (x y : Reg) (s : State) : StepOutcome :=
  .next (s.flagThenWrite x (lowBitFlag (s.shiftOperand x y)) (s.shiftOperand x y >>> 1)).advance

/-- 8xy7 SUBN (R149): VF = 1 iff V[y] > V[x], written before V[x]. -/
def execSubn (x y : Reg) (s : State) : StepOutcome :=
  .next (s.flagThenWrite x (greaterFlag (s.reg y) (s.reg x)) (s.reg y - s.reg x)).advance

/-- 8xyE SHL (R150): VF = the bit shifted out, written before V[x]. -/
def execShl (x y : Reg) (s : State) : StepOutcome :=
  .next (s.flagThenWrite x (highBitFlag (s.shiftOperand x y)) (s.shiftOperand x y <<< 1)).advance

end Sys2Proof.Machine
end

