-- ==== Sys2Proof/Machine/Draw.lean ====
section
/-! DEFINITION. The sprite draw (44_draw.md R180 to R186). -/

namespace Sys2Proof.Machine

/-- The loop of R180: each sprite byte is XORed onto its row, in increasing order, and the collision test (R183) of every row
is collected. -/
def drawBytes (cx : Byte) : List Byte → Nat → Frame × Bool → Frame × Bool
  | [], _, acc => acc
  | b :: bs, r, (f, hit) =>
    let m := spriteMask b cx
    drawBytes cx bs (r + 1) (fbSetRow f r (fbRow f r ^^^ m), hit || rowCollides (fbRow f r) m)

/-- The framebuffer and the collision of a draw of n bytes at column V[x], row V[y], from address I. -/
def State.drawSprite (s : State) (x y : Reg) (n : Nibble) : Frame × Bool :=
  drawBytes (s.reg x) (s.loadBytes s.i.toNat n.toNat) (s.reg y).toNat (s.fb, false)

/-- The checks of R180 and R185, in R246's order, all before any write. -/
def State.drawFault (s : State) (x y : Reg) (n : Nibble) : Option FaultCode :=
  if outOfRange s.i.toNat n.toNat then some .memReadOutOfRange
  else if n.toNat > 0 ∧ (s.reg y).toNat + n.toNat - 1 > 31 then some .drawRowOutOfRange
  else if n.toNat > 0 ∧ (s.reg x).toNat > 63 then some .drawColumnOutOfRange
  else none

/-- The frame send that ends a draw (R184, decision D16): with a live receiver the frame is emitted and PC advances; without
one, ON_FRAME_SEND_FAIL decides. FB and VF have been written by then. -/
def State.sendFrame (s : State) : State :=
  if s.frameRxLive then s.emitFrame.advance
  else match s.cfg.onFrameSendFail with
    | .fault          => s.raiseFault .frameChannelClosed
    | .logAndContinue => (s.emitLog (.frameSendFailed s.pc)).advance

/-- Dxyn DRW (R180). -/
def execDrw (x y : Reg) (n : Nibble) (s : State) : StepOutcome :=
  match s.drawFault x y n with
  | some code => .next (s.raiseFault code)
  | none =>
    .next ((s.setFb (s.drawSprite x y n).1).setReg vf (flagByte (s.drawSprite x y n).2)).sendFrame

end Sys2Proof.Machine
end

