-- ==== Sys2Proof/Machine/IndexJumpRandom.lean ====
section
/-! DEFINITION. The index register, the indexed jump and the random byte (43_index_jump_random.md R170 to R172). -/

namespace Sys2Proof.Machine

/-- Annn LD I (R170). -/
def execLdI (nnn : Addr12) (s : State) : StepOutcome := .next (s.setI (addrWord nnn)).advance

/-- Bnnn JP V0 (R171): the sum is not reduced (decision D18), and 16 bits hold it. -/
def execJpV0 (nnn : Addr12) (s : State) : StepOutcome := .next (s.setPc (addrWord nnn + zext16 (s.reg 0)))

/-- Cxnn RND (R172): one fresh draw per execution, under the mask nn. -/
def execRnd (x : Reg) (nn : Byte) (s : State) : StepOutcome :=
  .next (s.takeDraw.setReg x (s.nextDraw &&& nn)).advance

end Sys2Proof.Machine
end

