-- ==== Sys2Proof/Machine/IoTimer.lean ====
section
/-! DEFINITION. I/O, timers and memory transfer (46_io_timer.md R210 to R221). -/

namespace Sys2Proof.Machine

/-- Fx07 LD Vx, DT (R211). -/
def execLdVxDT (x : Reg) (s : State) : StepOutcome := .next (s.setReg x s.dt).advance

/-- Fx0A LD Vx, K (R212): the core waits, PC unchanged; the wait ends by a key event (R213, Machine/Events.lean). -/
def execLdVxK (x : Reg) (s : State) : StepOutcome := .next (s.setRun (.waiting x))

/-- Fx15 LD DT, Vx (R215). -/
def execLdDTVx (x : Reg) (s : State) : StepOutcome := .next (s.setDt (s.reg x)).advance

/-- Fx18 LD ST, Vx (R216). -/
def execLdSTVx (x : Reg) (s : State) : StepOutcome := .next (s.setSt (s.reg x)).advance

/-- Fx1E ADD I, Vx (R217): modulo 2^16, no flag. -/
def execAddI (x : Reg) (s : State) : StepOutcome := .next (s.setI (s.i + zext16 (s.reg x))).advance

/-- Fx29 LD F, Vx (R218). -/
def execLdF (x : Reg) (s : State) : StepOutcome := .next (s.setI (glyphAddress (s.reg x))).advance

/-- The checks of a store of len bytes at I, in R246's order: the bounds, then the glyph region (20_memory.md R63, R64). -/
def State.storeFault (s : State) (len : Nat) : Option FaultCode :=
  if outOfRange s.storeAddr len then some .memWriteOutOfRange
  else if s.storeAddr < 0x50 then some .glyphRegionWrite
  else none

/-- Fx33 LD B, Vx (R219). -/
def execLdB (x : Reg) (s : State) : StepOutcome :=
  match s.storeFault 3 with
  | some code => .next (s.raiseFault code)
  | none => .next (s.storeBytes s.storeAddr (bcdDigits (s.reg x))).advance

/-- Fx55 LD [I], Vx (R220): V0 to VF, whatever x is. -/
def execStRegs (_x : Reg) (s : State) : StepOutcome :=
  match s.storeFault 16 with
  | some code => .next (s.raiseFault code)
  | none => .next (s.storeBytes s.storeAddr s.v.toList).advance

/-- Fx65 LD Vx, [I] (R221): V0 to VF, whatever x is. -/
def execLdRegs (_x : Reg) (s : State) : StepOutcome :=
  if outOfRange s.i.toNat 16 then .next (s.raiseFault .memReadOutOfRange)
  else .next (s.setAllRegs (Vector.ofFn fun k : Fin 16 => s.readByte (s.i.toNat + k.val))).advance

end Sys2Proof.Machine
end

