-- ==== Sys2Proof/Machine/Keys.lean ====
section
/-! DEFINITION. The key skips (45_keys.md R200 to R202). -/

namespace Sys2Proof.Machine

/-- Key k is pressed exactly when bit k of KEYS.mask is 1 (R202). -/
def State.keyPressed (s : State) (k : Byte) : Bool := s.keys.mask.getLsbD k.toNat

/-- There is no key above 15 (R202, decision D11). -/
def keyOutOfRange (k : Byte) : Bool := decide (k.toNat > 15)

/-- Ex9E SKP (R200). -/
def execSkp (x : Reg) (s : State) : StepOutcome :=
  if keyOutOfRange (s.reg x) then .next (s.raiseFault .keyIndexOutOfRange)
  else .next (s.skipIf (s.keyPressed (s.reg x)))

/-- ExA1 SKNP (R201). -/
def execSknp (x : Reg) (s : State) : StepOutcome :=
  if keyOutOfRange (s.reg x) then .next (s.raiseFault .keyIndexOutOfRange)
  else .next (s.skipIf (!s.keyPressed (s.reg x)))

end Sys2Proof.Machine
end

