-- ==== Sys2Proof/Machine/LoadAdd.lean ====
section
/-! DEFINITION. Register immediates (41_load_add_imm.md R130, R131). -/

namespace Sys2Proof.Machine

/-- 6xnn LD (R130). -/
def execLdImm (x : Reg) (nn : Byte) (s : State) : StepOutcome := .next (s.setReg x nn).advance

/-- 7xnn ADD (R131): modulo 2^8, and VF is not written unless x = 0xF. -/
def execAddImm (x : Reg) (nn : Byte) (s : State) : StepOutcome := .next (s.setReg x (s.reg x + nn)).advance

end Sys2Proof.Machine
end

