-- ==== Sys2Proof/Machine/CoreStep.lean ====
section
/-! DEFINITION. One turn of the core (30_encoding.md R84). -/

namespace Sys2Proof.Machine

/-- Fetch, decode, execute, with RUN = Running (R84, the order of 60_exceptions.md R246). -/
def instrStep (s : State) : Host.Outcome State Fault Refusal :=
  match s.fetch with
  | none => .next (s.raiseFault .fetchOutOfRange)
  | some w =>
    match decodeWord s.cfg.zeroFamilyKey w with
    | .ok i    => exec i s
    | .error _ => .next (s.decodeFailure w)

/-- The core's turn: no step unless RUN = Running (R84); then nothing changes (log entry 2). -/
def coreStep (s : State) : Host.Outcome State Fault Refusal :=
  match s.run with
  | .running   => instrStep s
  | .waiting _ => .next s
  | .halted    => .next s
  | .faulted _ => .next s
  | .stopped   => .next s

end Sys2Proof.Machine
end

