-- ==== Sys2Proof/Machine/Events.lean ====
section
/-! DEFINITION. What the agents outside the core do at a step boundary (60_exceptions.md R260, R270 to R278). -/

namespace Sys2Proof.Machine

/-- A timer of R260 after a tick: down by one, never below 0. -/
def tickTimer (b : Byte) : Byte := if b.toNat > 0 then b - 1 else b

/-- Tick() (R260): both timers, whatever RUN is (R261). -/
def State.tick (s : State) : State := { s with dt := tickTimer s.dt, st := tickTimer s.st }

/-- The end of a key wait by a press of key k (46_io_timer.md R213). -/
def State.resolveWait (s : State) (x : Reg) (k : Key) : State :=
  ((s.setReg x (BitVec.ofNat 8 k.val)).advance).setRun .running

/-- ApplyKeyEvent (R271): the whole cell is replaced, and a press ends a key wait (46_io_timer.md R213). -/
def State.applyKey (s : State) (e : KeyEvent) : State :=
  let s := { s with keys := { mask := e.bitmaskAfter, last := some ⟨e.index, e.pressed⟩ } }
  match s.run, e.pressed with
  | .waiting x, true => s.resolveWait x e.index
  | _, _ => s

/-- A waiting core takes up a press that KEYS.last already holds (46_io_timer.md R214). Nothing happens where the
configuration, RUN or KEYS.last does not allow it (log entry 12). -/
def State.acceptStale (s : State) : State :=
  match s.cfg.keywaitStale, s.run, s.keys.last with
  | .mayAccept, .waiting x, some ⟨k, true⟩ => s.resolveWait x k
  | _, _, _ => s

/-- FRAME_RX_LIVE goes to false, and never back (R275). -/
def State.loseFrameRx (s : State) : State := { s with frameRxLive := false }

/-- The log stream loses its receiver (R275, log entry 15). -/
def State.loseLogRx (s : State) : State := { s with logRxLive := false }

/-- The host cancels the run, while RUN is Running or Waiting (R277). -/
def State.stopByHost (s : State) : State :=
  match s.run with
  | .running   => s.setRun .stopped
  | .waiting _ => s.setRun .stopped
  | .halted    => s
  | .faulted _ => s
  | .stopped   => s

/-- The next event and the state whose schedule has moved past it; with an empty schedule the core has its turn (R278, log
entry 3). -/
def State.nextEvent (s : State) : Event × State :=
  match s.sched with
  | []        => (.core, s)
  | e :: rest => (e, { s with sched := rest })

end Sys2Proof.Machine
end

