-- ==== Sys2Proof/Machine/Step.lean ====
section
/-! DEFINITION. One step of the machine: the next event of the schedule (60_exceptions.md R278). -/

namespace Sys2Proof.Machine

/-- One step: the event that the schedule gives next, applied to the state whose schedule has moved past it. -/
def step (s : State) : Host.Outcome State Fault Refusal :=
  match s.nextEvent with
  | (.core, t)             => coreStep t
  | (.tick, t)             => .next t.tick
  | (.key e, t)            => .next (t.applyKey e)
  | (.acceptStalePress, t) => .next t.acceptStale
  | (.frameRxLost, t)      => .next t.loseFrameRx
  | (.logRxLost, t)        => .next t.loseLogRx
  | (.hostStop, t)         => .next t.stopByHost

/-- The host's access: the instruction whose bits are w, where the next step fetches (log entry 19). -/
def State.withFetchWord (s : State) (nbits w : Nat) : State := s.placeWord (BitVec.ofNat 16 (w % 2 ^ nbits))

end Sys2Proof.Machine
end

