-- ==== Sys2Proof/Safety.lean ====
section
/-! DEFINITION. What counts as a safe run, and the words that statements about the machine use. -/

namespace Sys2Proof.Machine

/-! ### The end of a run (60_exceptions.md R279) -/

/-- RUN = Waiting(x) for some x. -/
def State.isWaiting (s : State) : Bool := match s.run with
  | .waiting _ => true
  | _ => false

/-- RUN = Faulted(code) for some code: a failed run (R241). -/
def State.isFaulted (s : State) : Bool := match s.run with
  | .faulted _ => true
  | _ => false

/-- A run has ended when RUN is Halted, Faulted or Stopped (R279). -/
def State.ended (s : State) : Bool := match s.run with
  | .running   => false
  | .waiting _ => false
  | .halted    => true
  | .faulted _ => true
  | .stopped   => true

/-! ### What the next step does -/

/-- The core has the next turn, and `rest` is the schedule after it (R278): it stands first in the schedule, or the schedule
is empty. -/
def State.coreTurn (s : State) (rest : List Event) : Prop :=
  s.sched = .core :: rest ∨ (s.sched = [] ∧ rest = [])

/-- The next step of s executes the instruction i (30_encoding.md R84). -/
def State.executes (s : State) (i : Instr) : Prop :=
  s.nextEvent.1 = .core ∧ s.run = .running ∧
    ∃ w, s.fetch = some w ∧ decodeWord s.cfg.zeroFamilyKey w = .ok i

/-- The log after Log(record): longer by the record, or as it was where the log stream has no live receiver (R275). -/
def State.logWith (s : State) (r : LogRecord) : List LogRecord := if s.logRxLive then s.log ++ [r] else s.log

/-- t is s after a fault: RUN and LOG as 60_exceptions.md R241 says, and nothing else changed. -/
def FaultedFrom (s : State) (code : FaultCode) (t : State) : Prop :=
  t = { s with run := .faulted code, log := s.logWith (.faultReport code s.pc) }

/-! ### Frames -/

/-- Every byte of memory reads as before. -/
def SameMemory (s t : State) : Prop := ∀ a, t.readByte a = s.readByte a

/-- Every byte of memory outside the len bytes from address a on reads as before. -/
def SameMemoryOutside (s t : State) (a len : Nat) : Prop :=
  ∀ a', a' < a ∨ a + len ≤ a' → t.readByte a' = s.readByte a'

/-- Every general register but those listed is as before. -/
def SameRegsBut (s t : State) (xs : List Reg) : Prop := ∀ z, z ∉ xs → t.reg z = s.reg z

/-- Nothing but general registers and PC differs. -/
def OnlyRegsPc (s t : State) : Prop := t = { s with v := t.v, pc := t.pc } ∧ SameMemory s t

/-- Nothing but PC differs. -/
def OnlyPc (s t : State) : Prop := t = { s with pc := t.pc } ∧ SameMemory s t

/-! ### The invariant -/

/-- What every step keeps: memory in canonical form, so that the glyph region holds the glyph ROM (20_memory.md R51, R64); PC
at most 0x10FE, so that no PC arithmetic wraps (10_state.md R25); every stack entry in use the address of an executed 2nnn, at
most 0xFFE (R25, R27); and a waiting core at an address it could fetch from. -/
abbrev State.Inv (s : State) : Prop :=
  Memory.wf s.cfg.glyphRom s.mem = true ∧ s.pc.toNat ≤ 0x10FE ∧
    (∀ k : Fin 16, k.val < s.sp.val → s.stack[k.val].toNat ≤ 0xFFE) ∧
    (s.isWaiting = true → s.pc.toNat ≤ 0xFFE)

/-- A safe state: it meets the invariant and no fault has been raised (R241: the faulted state is never a good final one). -/
abbrev State.Safe (s : State) : Prop := s.Inv ∧ s.isFaulted = false

end Sys2Proof.Machine
end

