-- ==== Sys2Proof/WellFormed.lean ====
section
/-! DEFINITION. What the outside world may hand to the model, as checks on data.
An `Instr` needs no check: its operands have the widths of their fields (30_encoding.md R82), and every value of a field is
a legal operand, so every term of `Instr` is well formed and no statement about instructions carries such a premise.
The checks are on an instruction WORD (R86, R89), on a ROM image (70_reset_and_hazards.md R303) and on a key event's mask
(60_exceptions.md R271). -/

namespace Sys2Proof

/-- One row of the opcode map of 30_encoding.md R86. -/
structure OpcodeRow where
  pattern : Word
  mask    : Word
deriving DecidableEq, Repr

/-- A word belongs to a row when `w & mask = match` (R86). -/
def OpcodeRow.matchesWord (r : OpcodeRow) (w : Word) : Bool := (w &&& r.mask) == r.pattern

/-- The mask of the three rows of the 0x0 family (R87). -/
def zeroFamilyMask : ZeroFamilyKey → Word
  | .addr12 => 0xFFFF
  | .low8   => 0xF0FF

/-- The opcode map of R86, in its order. -/
def opcodeRows (key : ZeroFamilyKey) : List OpcodeRow :=
  [⟨0x0000, zeroFamilyMask key⟩, ⟨0x00E0, zeroFamilyMask key⟩, ⟨0x00EE, zeroFamilyMask key⟩] ++
  [⟨0x1000, 0xF000⟩, ⟨0x2000, 0xF000⟩, ⟨0x3000, 0xF000⟩, ⟨0x4000, 0xF000⟩, ⟨0x5000, 0xF00F⟩,
   ⟨0x6000, 0xF000⟩, ⟨0x7000, 0xF000⟩] ++
  [⟨0x8000, 0xF00F⟩, ⟨0x8001, 0xF00F⟩, ⟨0x8002, 0xF00F⟩, ⟨0x8003, 0xF00F⟩, ⟨0x8004, 0xF00F⟩,
   ⟨0x8005, 0xF00F⟩, ⟨0x8006, 0xF00F⟩, ⟨0x8007, 0xF00F⟩, ⟨0x800E, 0xF00F⟩] ++
  [⟨0x9000, 0xF00F⟩, ⟨0xA000, 0xF000⟩, ⟨0xB000, 0xF000⟩, ⟨0xC000, 0xF000⟩, ⟨0xD000, 0xF000⟩,
   ⟨0xE09E, 0xF0FF⟩, ⟨0xE0A1, 0xF0FF⟩] ++
  [⟨0xF007, 0xF0FF⟩, ⟨0xF00A, 0xF0FF⟩, ⟨0xF015, 0xF0FF⟩, ⟨0xF018, 0xF0FF⟩, ⟨0xF01E, 0xF0FF⟩,
   ⟨0xF029, 0xF0FF⟩, ⟨0xF033, 0xF0FF⟩, ⟨0xF055, 0xF0FF⟩, ⟨0xF065, 0xF0FF⟩]

/-- A word is legal when some row of R86 selects it; every other word is illegal (R89). -/
def legalWord (key : ZeroFamilyKey) (w : Word) : Bool := (opcodeRows key).any (·.matchesWord w)

/-- A ROM fits when its length is at most 3584 bytes (70_reset_and_hazards.md R303). -/
def romFits (rom : List Byte) : Bool := rom.length ≤ 3584

/-- The input collaborator's duty on a key event: the mask after it shows the key as the event says (60_exceptions.md
R271). The machine assumes it of no event (93 U17): `applyKey` stores whatever mask it is given. -/
def keyMaskAgrees (index : Key) (pressed : Bool) (bitmaskAfter : Word) : Bool :=
  bitmaskAfter.getLsbD index.val == pressed

end Sys2Proof
end

