-- ==== Sys2Proof/Certificates/Slice0/Obligations.lean ====
section
/-! DEFINITION. The statements for the provers. Each names the rule of spec/ it formalises.
`exec i s` is the instruction's own effect (its operands are `Instr`'s arguments); `step s` is one event of the schedule. -/

open Sys2Proof Sys2Proof.Machine

/-! ## Encoding -/

/-- Every instruction, with every value of every operand: the bytes of its word decode to it, whatever follows them and whichever
key the 0x0 family has (30_encoding.md, opcode map). -/
def Obligations.DecodeOfEncodeIsTheInstruction : Prop :=
  ∀ (key : ZeroFamilyKey) (i : Instr) (rest : List Byte),
    decodeBytes key (bytesOfWord (encode i) ++ rest) = .ok (i, rest)

/-- With ZERO_FAMILY_KEY = addr12 no bit of a word is dropped: a word that decodes is the word of its instruction. -/
def Obligations.EncodeOfDecodeIsTheWord : Prop :=
  ∀ (w : Word) (i : Instr), decodeWord .addr12 w = .ok i → encode i = w

/-- R86, with ZERO_FAMILY_KEY = addr12 as its rows have it and the fields of R81 as numbers: each row selects the words with
`w & mask = match`, and a word that no row selects is rejected. (The key low8 is LowByteKeyIgnoresOnlyXOfTheZeroFamily.) -/
def Obligations.OpcodeMapSelectsByMatchAndMask : Prop :=
  ∀ (w : Word) (x y : Reg) (z : Nibble) (nn : Byte) (nnn : Addr12),
    x.val = w.toNat / 256 % 16 → y.val = w.toNat / 16 % 16 → z.toNat = w.toNat % 16 →
    nn.toNat = w.toNat % 256 → nnn.toNat = w.toNat % 4096 →
    (w &&& 0xFFFF = 0x0000 → decodeWord .addr12 w = .ok .halt) ∧
    (w &&& 0xFFFF = 0x00E0 → decodeWord .addr12 w = .ok .cls) ∧
    (w &&& 0xFFFF = 0x00EE → decodeWord .addr12 w = .ok .ret) ∧
    (w &&& 0xF000 = 0x1000 → decodeWord .addr12 w = .ok (.jp nnn)) ∧
    (w &&& 0xF000 = 0x2000 → decodeWord .addr12 w = .ok (.call nnn)) ∧
    (w &&& 0xF000 = 0x3000 → decodeWord .addr12 w = .ok (.seImm x nn)) ∧
    (w &&& 0xF000 = 0x4000 → decodeWord .addr12 w = .ok (.sneImm x nn)) ∧
    (w &&& 0xF00F = 0x5000 → decodeWord .addr12 w = .ok (.seReg x y)) ∧
    (w &&& 0xF000 = 0x6000 → decodeWord .addr12 w = .ok (.ldImm x nn)) ∧
    (w &&& 0xF000 = 0x7000 → decodeWord .addr12 w = .ok (.addImm x nn)) ∧
    (w &&& 0xF00F = 0x8000 → decodeWord .addr12 w = .ok (.ldReg x y)) ∧
    (w &&& 0xF00F = 0x8001 → decodeWord .addr12 w = .ok (.orReg x y)) ∧
    (w &&& 0xF00F = 0x8002 → decodeWord .addr12 w = .ok (.andReg x y)) ∧
    (w &&& 0xF00F = 0x8003 → decodeWord .addr12 w = .ok (.xorReg x y)) ∧
    (w &&& 0xF00F = 0x8004 → decodeWord .addr12 w = .ok (.addReg x y)) ∧
    (w &&& 0xF00F = 0x8005 → decodeWord .addr12 w = .ok (.subReg x y)) ∧
    (w &&& 0xF00F = 0x8006 → decodeWord .addr12 w = .ok (.shr x y)) ∧
    (w &&& 0xF00F = 0x8007 → decodeWord .addr12 w = .ok (.subn x y)) ∧
    (w &&& 0xF00F = 0x800E → decodeWord .addr12 w = .ok (.shl x y)) ∧
    (w &&& 0xF00F = 0x9000 → decodeWord .addr12 w = .ok (.sneReg x y)) ∧
    (w &&& 0xF000 = 0xA000 → decodeWord .addr12 w = .ok (.ldI nnn)) ∧
    (w &&& 0xF000 = 0xB000 → decodeWord .addr12 w = .ok (.jpV0 nnn)) ∧
    (w &&& 0xF000 = 0xC000 → decodeWord .addr12 w = .ok (.rnd x nn)) ∧
    (w &&& 0xF000 = 0xD000 → decodeWord .addr12 w = .ok (.drw x y z)) ∧
    (w &&& 0xF0FF = 0xE09E → decodeWord .addr12 w = .ok (.skp x)) ∧
    (w &&& 0xF0FF = 0xE0A1 → decodeWord .addr12 w = .ok (.sknp x)) ∧
    (w &&& 0xF0FF = 0xF007 → decodeWord .addr12 w = .ok (.ldVxDT x)) ∧
    (w &&& 0xF0FF = 0xF00A → decodeWord .addr12 w = .ok (.ldVxK x)) ∧
    (w &&& 0xF0FF = 0xF015 → decodeWord .addr12 w = .ok (.ldDTVx x)) ∧
    (w &&& 0xF0FF = 0xF018 → decodeWord .addr12 w = .ok (.ldSTVx x)) ∧
    (w &&& 0xF0FF = 0xF01E → decodeWord .addr12 w = .ok (.addI x)) ∧
    (w &&& 0xF0FF = 0xF029 → decodeWord .addr12 w = .ok (.ldF x)) ∧
    (w &&& 0xF0FF = 0xF033 → decodeWord .addr12 w = .ok (.ldB x)) ∧
    (w &&& 0xF0FF = 0xF055 → decodeWord .addr12 w = .ok (.stRegs x)) ∧
    (w &&& 0xF0FF = 0xF065 → decodeWord .addr12 w = .ok (.ldRegs x)) ∧
    (legalWord .addr12 w = false → ∃ r, decodeWord .addr12 w = .error r)

/-- The match patterns of the opcode map do not overlap, so every word has one outcome (30_encoding.md R85, an inference the spec
marks as derived). -/
def Obligations.OpcodeRowsDoNotOverlap : Prop :=
  ∀ (key : ZeroFamilyKey) (w : Word) (j k : Nat) (hj : j < (opcodeRows key).length) (hk : k < (opcodeRows key).length),
    (opcodeRows key)[j].matchesWord w = true → (opcodeRows key)[k].matchesWord w = true → j = k

/-- ZERO_FAMILY_KEY = low8 differs from addr12 only in the 0x0 family, where bits 11 to 8 are ignored (the spec's decision D8). -/
def Obligations.LowByteKeyIgnoresOnlyXOfTheZeroFamily : Prop :=
  ∀ (w : Word) (i : Instr),
    decodeWord .low8 w = .ok i ↔ decodeWord .addr12 (if w &&& 0xF000 = 0 then w &&& 0xF0FF else w) = .ok i

/-- One word of each of the sixteen families (a family is one mode value, 00_scope.md R13), written out from the opcode map, decodes
to the instruction it stands for (a sanity statement). -/
def Obligations.WrittenOutWordsDecode : Prop :=
  decodeWord .addr12 0b0000000011101110 = .ok .ret ∧
  decodeWord .addr12 0b0001001000110100 = .ok (.jp 0x234) ∧
  decodeWord .addr12 0b0010001100000001 = .ok (.call 0x301) ∧
  decodeWord .addr12 0b0011001101000010 = .ok (.seImm 3 0x42) ∧
  decodeWord .addr12 0b0100010000100100 = .ok (.sneImm 4 0x24) ∧
  decodeWord .addr12 0b0101000100100000 = .ok (.seReg 1 2) ∧
  decodeWord .addr12 0b0110101000111100 = .ok (.ldImm 0xA 0x3C) ∧
  decodeWord .addr12 0b0111001011110000 = .ok (.addImm 2 0xF0) ∧
  decodeWord .addr12 0b1000000100101110 = .ok (.shl 1 2) ∧
  decodeWord .addr12 0b1001001011110000 = .ok (.sneReg 2 0xF) ∧
  decodeWord .addr12 0b1010001011110000 = .ok (.ldI 0x2F0) ∧
  decodeWord .addr12 0b1011001100000100 = .ok (.jpV0 0x304) ∧
  decodeWord .addr12 0b1100001100001111 = .ok (.rnd 3 0x0F) ∧
  decodeWord .addr12 0b1101000100100101 = .ok (.drw 1 2 5) ∧
  decodeWord .addr12 0b1110001110100001 = .ok (.sknp 3) ∧
  decodeWord .addr12 0b1111001101100101 = .ok (.ldRegs 3)

/-! ## The step -/

/-- On the core's turn nothing happens unless RUN = Running; then the word at PC is fetched, and it faults, fails to decode, or is
executed, once, by `exec` at the state whose schedule has moved past the core's turn (30_encoding.md, the step; that a step is taken
with RUN other than Running, and the schedule, are the model's own, log entries 2 and 3). -/
def Obligations.StepRunsTheDecodedInstruction : Prop :=
  ∀ (s : State) (rest : List Event), s.coreTurn rest →
    (s.run ≠ .running → step s = .next { s with sched := rest }) ∧
    (s.run = .running → s.fetch = none →
      step s = .next (({ s with sched := rest } : State).raiseFault .fetchOutOfRange)) ∧
    (∀ (w : Word) (r : Reject), s.run = .running → s.fetch = some w → decodeWord s.cfg.zeroFamilyKey w = .error r →
      step s = .next (({ s with sched := rest } : State).decodeFailure w)) ∧
    (∀ (w : Word) (i : Instr), s.run = .running → s.fetch = some w → decodeWord s.cfg.zeroFamilyKey w = .ok i →
      step s = exec i { s with sched := rest })

/-- The fetch reads the bytes at PC and PC + 1, big-endian; with PC + 1 above 0xFFF it raises FetchOutOfRange (20_memory.md, instruction
fetch; a raised fault as a next state: log entry 1). -/
def Obligations.FetchIsBigEndianOrFaults : Prop :=
  ∀ (s : State),
    (s.pc.toNat + 1 < 4096 →
      ∃ w, s.fetch = some w ∧
        w.toNat = (s.readByte s.pc.toNat).toNat * 256 + (s.readByte (s.pc.toNat + 1)).toNat) ∧
    (s.pc.toNat + 1 ≥ 4096 → ∀ rest, s.coreTurn rest → s.run = .running →
      ∃ t, step s = .next t ∧ FaultedFrom { s with sched := rest } .fetchOutOfRange t)

/-- A word that no row of the opcode map selects is logged and passed over, and nothing else changes (60_exceptions.md R244 with
the spec's decision D15). -/
def Obligations.IllegalWordIsLoggedAndPassedOver : Prop :=
  ∀ (s : State) (rest : List Event) (w : Word), s.coreTurn rest → s.run = .running → s.fetch = some w →
    legalWord s.cfg.zeroFamilyKey w = false →
    ∃ t, step s = .next t ∧ t.pc = s.pc + 2 ∧ t.run = .running ∧ t.log = s.logWith (.decodeFailure s.pc w) ∧
      t = { s with pc := t.pc, log := t.log, sched := rest } ∧ SameMemory s t

/-- A tick lowers each timer by one, with a floor of 0, and changes nothing else (60_exceptions.md, timers; that it is the next event of
the schedule is the model's own, log entry 3). -/
def Obligations.TickLowersBothTimers : Prop :=
  ∀ (s : State) (rest : List Event), s.sched = .tick :: rest →
    ∃ t, step s = .next t ∧ t.dt.toNat = s.dt.toNat - 1 ∧ t.st.toNat = s.st.toNat - 1 ∧
      t = { s with dt := t.dt, st := t.st, sched := rest } ∧ SameMemory s t

/-- A key event replaces the key cell, and a press ends a key wait in the same step; a release, or a press while the core does not wait,
changes nothing else (60_exceptions.md, devices and the host; 46_io_timer.md, key wait; the schedule: log entry 3). -/
def Obligations.KeyEventReplacesTheCellAndAPressEndsAWait : Prop :=
  ∀ (s : State) (e : KeyEvent) (rest : List Event), s.sched = .key e :: rest →
    ∃ t, step s = .next t ∧ t.keys = { mask := e.bitmaskAfter, last := some ⟨e.index, e.pressed⟩ } ∧ SameMemory s t ∧
      (∀ x, s.run = .waiting x → e.pressed = true →
        (t.reg x).toNat = e.index.val ∧ SameRegsBut s t [x] ∧ t.pc = s.pc + 2 ∧ t.run = .running ∧
        t = { s with v := t.v, pc := t.pc, run := t.run, keys := t.keys, sched := rest }) ∧
      (e.pressed = false ∨ s.isWaiting = false → t = { s with keys := t.keys, sched := rest })

/-- A waiting core may take up a press that KEYS.last holds only with KEYWAIT_STALE = may_accept (46_io_timer.md R214, decision
D12). That the choice is an event of the schedule is the model's own (log entry 12). -/
def Obligations.StalePressEndsAWaitOnlyWhenAllowed : Prop :=
  ∀ (s : State) (rest : List Event), s.sched = .acceptStalePress :: rest →
    ∃ t, step s = .next t ∧ SameMemory s t ∧
      (∀ x k, s.run = .waiting x → s.keys.last = some ⟨k, true⟩ → s.cfg.keywaitStale = .mayAccept →
        (t.reg x).toNat = k.val ∧ SameRegsBut s t [x] ∧ t.pc = s.pc + 2 ∧ t.run = .running ∧
        t = { s with v := t.v, pc := t.pc, run := t.run, sched := rest }) ∧
      (s.isWaiting = false ∨ (∀ k, s.keys.last ≠ some ⟨k, true⟩) ∨ s.cfg.keywaitStale = .ignore →
        t = { s with sched := rest })

/-- The host stops a core that is Running or Waiting, and no other (60_exceptions.md R277); a receiver that is lost changes only
its own liveness (R275; the log's receiver: log entry 15). -/
def Obligations.HostStopAndReceiverLossChangeOneFieldEach : Prop :=
  ∀ (s : State) (rest : List Event),
    (s.sched = .hostStop :: rest →
      ∃ t, step s = .next t ∧ t = { s with run := t.run, sched := rest } ∧
        (s.ended = false → t.run = .stopped) ∧ (s.ended = true → t.run = s.run)) ∧
    (s.sched = .frameRxLost :: rest → step s = .next { s with frameRxLive := false, sched := rest }) ∧
    (s.sched = .logRxLost :: rest → step s = .next { s with logRxLive := false, sched := rest })

/-! ## Control flow -/

/-- 0000 stops the machine with a HaltNotice; PC is unchanged (40_flow.md, HALT; decision D17). -/
def Obligations.HaltLogsAndStopsTheMachine : Prop :=
  ∀ (s : State), ∃ t, exec .halt s = .next t ∧ t.run = .halted ∧ t.log = s.logWith (.haltNotice s.pc) ∧
    t = { s with run := t.run, log := t.log } ∧ SameMemory s t

/-- 00E0 clears every row and emits no frame (40_flow.md, CLS; that no frame leaves is an inference the spec marks as derived). -/
def Obligations.ClsClearsEveryRow : Prop :=
  ∀ (s : State), ∃ t, exec .cls s = .next t ∧ (∀ r c, pixel t.fb r c = false) ∧ (∀ r, fbRow t.fb r = 0) ∧
    t.pc = s.pc + 2 ∧ t = { s with fb := t.fb, pc := t.pc } ∧ SameMemory s t

/-- R103: 1nnn sets PC to nnn. -/
def Obligations.JumpSetsPc : Prop :=
  ∀ (nnn : Addr12) (s : State), ∃ t, exec (.jp nnn) s = .next t ∧ t.pc.toNat = nnn.toNat ∧ OnlyPc s t

/-- Bnnn sets PC to the exact sum nnn + V0, not reduced (43_index_jump_random.md, decision D18). -/
def Obligations.IndexedJumpAddsV0WithoutReduction : Prop :=
  ∀ (nnn : Addr12) (s : State),
    ∃ t, exec (.jpV0 nnn) s = .next t ∧ t.pc.toNat = nnn.toNat + (s.reg 0).toNat ∧ OnlyPc s t

/-- 2nnn pushes its own address and jumps; with SP = 16 it raises StackOverflow (40_flow.md, CALL; decision D7). -/
def Obligations.CallPushesItsOwnAddress : Prop :=
  ∀ (nnn : Addr12) (s : State),
    (∀ (_ : s.sp.val < 16), ∃ t, exec (.call nnn) s = .next t ∧ t.pc.toNat = nnn.toNat ∧ t.sp.val = s.sp.val + 1 ∧
      t.stack[s.sp.val] = s.pc ∧ (∀ k : Fin 16, k.val ≠ s.sp.val → t.stack[k.val] = s.stack[k.val]) ∧
      t = { s with pc := t.pc, sp := t.sp, stack := t.stack } ∧ SameMemory s t) ∧
    (s.sp.val = 16 → ∃ t, exec (.call nnn) s = .next t ∧ FaultedFrom s .stackOverflow t)

/-- 00EE pops, and goes on two bytes after the popped address; the entry keeps its value; with SP = 0 it raises StackUnderflow
(40_flow.md, RET; decision D7). -/
def Obligations.RetReturnsBehindTheCall : Prop :=
  ∀ (s : State),
    (s.sp.val ≠ 0 → ∃ t, exec .ret s = .next t ∧ t.sp.val + 1 = s.sp.val ∧
      (∀ k : Fin 16, k.val = t.sp.val → t.pc = s.stack[k.val] + 2) ∧
      t = { s with pc := t.pc, sp := t.sp } ∧ SameMemory s t) ∧
    (s.sp.val = 0 → ∃ t, exec .ret s = .next t ∧ FaultedFrom s .stackUnderflow t)

/-- A return right after a call restores SP and goes on two bytes after the call; no stack entry in use has changed (the call and
return pair of 90_conflicts.md C2). -/
def Obligations.RetAfterCallGoesOnBehindTheCall : Prop :=
  ∀ (nnn : Addr12) (s : State), s.sp.val < 16 →
    ∃ t u, exec (.call nnn) s = .next t ∧ exec .ret t = .next u ∧ u.pc = s.pc + 2 ∧ u.sp = s.sp ∧
      (∀ k : Fin 16, k.val ≠ s.sp.val → u.stack[k.val] = s.stack[k.val]) ∧
      u = { s with pc := u.pc, stack := u.stack } ∧ SameMemory s u

/-- R105, R106: 3xnn skips exactly when V[x] = nn, 4xnn exactly when it differs. -/
def Obligations.ImmediateSkips : Prop :=
  ∀ (x : Reg) (nn : Byte) (s : State),
    (∃ t, exec (.seImm x nn) s = .next t ∧ OnlyPc s t ∧
      ((s.reg x).toNat = nn.toNat → t.pc = s.pc + 4) ∧ ((s.reg x).toNat ≠ nn.toNat → t.pc = s.pc + 2)) ∧
    (∃ t, exec (.sneImm x nn) s = .next t ∧ OnlyPc s t ∧
      ((s.reg x).toNat ≠ nn.toNat → t.pc = s.pc + 4) ∧ ((s.reg x).toNat = nn.toNat → t.pc = s.pc + 2))

/-- R107, R108: 5xy0 skips exactly when V[x] = V[y], 9xy0 exactly when they differ. -/
def Obligations.RegisterSkips : Prop :=
  ∀ (x y : Reg) (s : State),
    (∃ t, exec (.seReg x y) s = .next t ∧ OnlyPc s t ∧
      ((s.reg x).toNat = (s.reg y).toNat → t.pc = s.pc + 4) ∧
      ((s.reg x).toNat ≠ (s.reg y).toNat → t.pc = s.pc + 2)) ∧
    (∃ t, exec (.sneReg x y) s = .next t ∧ OnlyPc s t ∧
      ((s.reg x).toNat ≠ (s.reg y).toNat → t.pc = s.pc + 4) ∧
      ((s.reg x).toNat = (s.reg y).toNat → t.pc = s.pc + 2))

/-! ## Immediates, arithmetic and logic -/

/-- R130, R131: 6xnn loads nn; 7xnn adds nn modulo 256; no other register changes, VF included unless x = 0xF. -/
def Obligations.ImmediateLoadAndAdd : Prop :=
  ∀ (x : Reg) (nn : Byte) (s : State),
    (∃ t, exec (.ldImm x nn) s = .next t ∧ (t.reg x).toNat = nn.toNat ∧ t.pc = s.pc + 2 ∧
      SameRegsBut s t [x] ∧ OnlyRegsPc s t) ∧
    (∃ t, exec (.addImm x nn) s = .next t ∧ (t.reg x).toNat = ((s.reg x).toNat + nn.toNat) % 256 ∧ t.pc = s.pc + 2 ∧
      SameRegsBut s t [x] ∧ OnlyRegsPc s t)

/-- R141 to R144: copy, or, and, exclusive or, bit by bit; VF is not reset. -/
def Obligations.CopyAndLogic : Prop :=
  ∀ (x y : Reg) (s : State),
    (∃ t, exec (.ldReg x y) s = .next t ∧ t.reg x = s.reg y ∧ t.pc = s.pc + 2 ∧ SameRegsBut s t [x] ∧ OnlyRegsPc s t) ∧
    (∃ t, exec (.orReg x y) s = .next t ∧
      (∀ k, (t.reg x).getLsbD k = ((s.reg x).getLsbD k || (s.reg y).getLsbD k)) ∧ t.pc = s.pc + 2 ∧
      SameRegsBut s t [x] ∧ OnlyRegsPc s t) ∧
    (∃ t, exec (.andReg x y) s = .next t ∧
      (∀ k, (t.reg x).getLsbD k = ((s.reg x).getLsbD k && (s.reg y).getLsbD k)) ∧ t.pc = s.pc + 2 ∧
      SameRegsBut s t [x] ∧ OnlyRegsPc s t) ∧
    (∃ t, exec (.xorReg x y) s = .next t ∧
      (∀ k, (t.reg x).getLsbD k = ((s.reg x).getLsbD k != (s.reg y).getLsbD k)) ∧ t.pc = s.pc + 2 ∧
      SameRegsBut s t [x] ∧ OnlyRegsPc s t)

/-- 8xy4 writes the sum modulo 256, then the carry: VF ends as the carry even when x = 0xF (42_alu.md, ADD; that the operands are
latched and VF is written last is the spec's decision D10, log entry 22). -/
def Obligations.AddWritesTheSumThenTheCarry : Prop :=
  ∀ (x y : Reg) (s : State),
    ∃ t, exec (.addReg x y) s = .next t ∧
      (t.reg vf).toNat = (if (s.reg x).toNat + (s.reg y).toNat > 255 then 1 else 0) ∧
      (x ≠ vf → (t.reg x).toNat = ((s.reg x).toNat + (s.reg y).toNat) % 256) ∧
      t.pc = s.pc + 2 ∧ SameRegsBut s t [x, vf] ∧ OnlyRegsPc s t

/-- 8xy5 and 8xy7: the flag is 1 exactly when the minuend is strictly greater; the difference is written last, so with x = 0xF VF ends
as the difference (42_alu.md, SUB and SUBN; that the operands are latched and V[x] is written last is the spec's decision D10, log
entry 22). -/
def Obligations.SubtractionsWriteTheFlagThenTheDifference : Prop :=
  ∀ (x y : Reg) (s : State),
    (∃ t, exec (.subReg x y) s = .next t ∧
      (t.reg x).toNat = ((s.reg x).toNat + 256 - (s.reg y).toNat) % 256 ∧
      (x ≠ vf → (t.reg vf).toNat = if (s.reg x).toNat > (s.reg y).toNat then 1 else 0) ∧
      t.pc = s.pc + 2 ∧ SameRegsBut s t [x, vf] ∧ OnlyRegsPc s t) ∧
    (∃ t, exec (.subn x y) s = .next t ∧
      (t.reg x).toNat = ((s.reg y).toNat + 256 - (s.reg x).toNat) % 256 ∧
      (x ≠ vf → (t.reg vf).toNat = if (s.reg y).toNat > (s.reg x).toNat then 1 else 0) ∧
      t.pc = s.pc + 2 ∧ SameRegsBut s t [x, vf] ∧ OnlyRegsPc s t)

/-- 8xy6 and 8xyE: the operand b is V[x] or V[y] by SHIFT_SOURCE (either value when x = y); the flag is the bit shifted out; the result
is written last, so with x = 0xF VF ends as the result (42_alu.md, SHR and SHL; that the operand is latched and V[x] is written last
is the spec's decision D10, log entry 22). -/
def Obligations.ShiftsWriteTheBitOutThenTheResult : Prop :=
  ∀ (x y : Reg) (s : State) (b : Byte),
    (s.cfg.shiftSource = .vx → b = s.reg x) → (s.cfg.shiftSource = .vy → b = s.reg y) →
    (∃ t, exec (.shr x y) s = .next t ∧ (t.reg x).toNat = b.toNat / 2 ∧ (x ≠ vf → (t.reg vf).toNat = b.toNat % 2) ∧
      t.pc = s.pc + 2 ∧ SameRegsBut s t [x, vf] ∧ OnlyRegsPc s t) ∧
    (∃ t, exec (.shl x y) s = .next t ∧ (t.reg x).toNat = b.toNat * 2 % 256 ∧
      (x ≠ vf → (t.reg vf).toNat = b.toNat / 128) ∧
      t.pc = s.pc + 2 ∧ SameRegsBut s t [x, vf] ∧ OnlyRegsPc s t)

/-- SHIFT_SOURCE matters to no instruction but 8xy6 and 8xyE with x different from y (00_scope.md R8, 42_alu.md R151). -/
def Obligations.ShiftSourceMattersOnlyToShiftsOfTwoRegisters : Prop :=
  ∀ (i : Instr) (s t : State) (p : ShiftSource),
    (∀ x y, x ≠ y → i ≠ .shr x y ∧ i ≠ .shl x y) → exec i s = .next t →
    exec i { s with cfg := { s.cfg with shiftSource := p } } = .next { t with cfg := { t.cfg with shiftSource := p } }

/-! ## Index register, random byte, timers, keys -/

/-- R170, R218: Annn loads nnn into I; Fx29 loads the address of the glyph of V[x]'s low nibble, 5 bytes a glyph. -/
def Obligations.IndexLoads : Prop :=
  ∀ (nnn : Addr12) (x : Reg) (s : State),
    (∃ t, exec (.ldI nnn) s = .next t ∧ t.i.toNat = nnn.toNat ∧ t.pc = s.pc + 2 ∧
      t = { s with i := t.i, pc := t.pc } ∧ SameMemory s t) ∧
    (∃ t, exec (.ldF x) s = .next t ∧ t.i.toNat = (s.reg x).toNat % 16 * 5 ∧ t.pc = s.pc + 2 ∧
      t = { s with i := t.i, pc := t.pc } ∧ SameMemory s t)

/-- Fx1E adds V[x] to I modulo 2^16 and touches no flag (46_io_timer.md, ADD I; the modulus is decision D18). -/
def Obligations.IndexAddWrapsWithoutAFlag : Prop :=
  ∀ (x : Reg) (s : State), ∃ t, exec (.addI x) s = .next t ∧
    t.i.toNat = (s.i.toNat + (s.reg x).toNat) % 65536 ∧ t.pc = s.pc + 2 ∧
    t = { s with i := t.i, pc := t.pc } ∧ SameMemory s t

/-- Cxnn takes one fresh draw of the oracle, whatever it is, and writes it under the mask nn (43_index_jump_random.md, decision
D26; the counter `draws` is the model's own, log entry 6). -/
def Obligations.RandomByteIsOneFreshDrawUnderTheMask : Prop :=
  ∀ (x : Reg) (nn : Byte) (s : State), ∃ t, exec (.rnd x nn) s = .next t ∧
    (∀ k, (t.reg x).getLsbD k = ((Config.randomDraw s.draws).getLsbD k && nn.getLsbD k)) ∧
    t.draws = s.draws + 1 ∧ t.pc = s.pc + 2 ∧ SameRegsBut s t [x] ∧
    t = { s with v := t.v, pc := t.pc, draws := t.draws } ∧ SameMemory s t

/-- R211, R215: Fx07 reads DT, Fx15 writes it; and Fx18 writes ST (46_io_timer.md, LD ST). -/
def Obligations.TimerReadAndWrites : Prop :=
  ∀ (x : Reg) (s : State),
    (∃ t, exec (.ldVxDT x) s = .next t ∧ t.reg x = s.dt ∧ t.pc = s.pc + 2 ∧ SameRegsBut s t [x] ∧ OnlyRegsPc s t) ∧
    (∃ t, exec (.ldDTVx x) s = .next t ∧ t.dt = s.reg x ∧ t.pc = s.pc + 2 ∧
      t = { s with dt := t.dt, pc := t.pc } ∧ SameMemory s t) ∧
    (∃ t, exec (.ldSTVx x) s = .next t ∧ t.st = s.reg x ∧ t.pc = s.pc + 2 ∧
      t = { s with st := t.st, pc := t.pc } ∧ SameMemory s t)

/-- Fx0A suspends the core with its register field, PC unchanged (46_io_timer.md, LD Vx, K; decision D12). -/
def Obligations.KeyWaitSuspendsTheCore : Prop :=
  ∀ (x : Reg) (s : State), ∃ t, exec (.ldVxK x) s = .next t ∧ t.run = .waiting x ∧
    t = { s with run := t.run } ∧ SameMemory s t

/-- Ex9E skips exactly when the key numbered V[x] is pressed, ExA1 exactly when it is not; a number above 15 raises
KeyIndexOutOfRange (45_keys.md; decision D11). -/
def Obligations.KeySkipsTestTheMaskBit : Prop :=
  ∀ (x : Reg) (s : State),
    ((s.reg x).toNat ≤ 15 →
      (∃ t, exec (.skp x) s = .next t ∧ OnlyPc s t ∧
        (s.keys.mask.toNat / 2 ^ (s.reg x).toNat % 2 = 1 → t.pc = s.pc + 4) ∧
        (s.keys.mask.toNat / 2 ^ (s.reg x).toNat % 2 = 0 → t.pc = s.pc + 2)) ∧
      (∃ t, exec (.sknp x) s = .next t ∧ OnlyPc s t ∧
        (s.keys.mask.toNat / 2 ^ (s.reg x).toNat % 2 = 1 → t.pc = s.pc + 2) ∧
        (s.keys.mask.toNat / 2 ^ (s.reg x).toNat % 2 = 0 → t.pc = s.pc + 4))) ∧
    ((s.reg x).toNat > 15 →
      (∃ t, exec (.skp x) s = .next t ∧ FaultedFrom s .keyIndexOutOfRange t) ∧
      (∃ t, exec (.sknp x) s = .next t ∧ FaultedFrom s .keyIndexOutOfRange t))

/-! ## Memory transfer -/

/-- Fx33 stores the hundreds, tens and units digits of V[x] at I, I + 1 and I + 2; I is unchanged (46_io_timer.md, LD B; decisions
D4, D19). -/
def Obligations.BcdStoresThreeDigitsAtI : Prop :=
  ∀ (x : Reg) (s : State), 0x50 ≤ s.i.toNat → s.i.toNat + 3 ≤ 4096 →
    ∃ t, exec (.ldB x) s = .next t ∧
      (t.readByte s.storeAddr).toNat = (s.reg x).toNat / 100 ∧
      (t.readByte (s.storeAddr + 1)).toNat = (s.reg x).toNat / 10 % 10 ∧
      (t.readByte (s.storeAddr + 2)).toNat = (s.reg x).toNat % 10 ∧
      s.storeAddr = s.i.toNat ∧ SameMemoryOutside s t s.storeAddr 3 ∧ t.pc = s.pc + 2 ∧
      t = { s with mem := t.mem, pc := t.pc }

/-- Fx55 stores all sixteen registers from I on, whatever x is; I is unchanged (46_io_timer.md, LD [I]; decisions D4, D19). -/
def Obligations.DumpStoresAllSixteenRegistersAtI : Prop :=
  ∀ (x : Reg) (s : State), 0x50 ≤ s.i.toNat → s.i.toNat + 16 ≤ 4096 →
    ∃ t, exec (.stRegs x) s = .next t ∧ (∀ k : Reg, t.readByte (s.storeAddr + k.val) = s.reg k) ∧
      s.storeAddr = s.i.toNat ∧ SameMemoryOutside s t s.storeAddr 16 ∧ t.pc = s.pc + 2 ∧
      t = { s with mem := t.mem, pc := t.pc }

/-- Fx33 and Fx55 check their bounds, then the glyph region, before any write (46_io_timer.md; decisions D4, D5, D14, D24). -/
def Obligations.StoresOutOfRangeOrIntoTheGlyphsFault : Prop :=
  ∀ (x : Reg) (s : State),
    (s.i.toNat + 3 > 4096 → ∃ t, exec (.ldB x) s = .next t ∧ FaultedFrom s .memWriteOutOfRange t) ∧
    (s.i.toNat < 0x50 → ∃ t, exec (.ldB x) s = .next t ∧ FaultedFrom s .glyphRegionWrite t) ∧
    (s.i.toNat + 16 > 4096 → ∃ t, exec (.stRegs x) s = .next t ∧ FaultedFrom s .memWriteOutOfRange t) ∧
    (s.i.toNat < 0x50 → ∃ t, exec (.stRegs x) s = .next t ∧ FaultedFrom s .glyphRegionWrite t)

/-- Fx65 loads all sixteen registers from I on, whatever x is, or raises MemReadOutOfRange; I is unchanged (46_io_timer.md, LD Vx,
[I]; decisions D5, D19). -/
def Obligations.LoadReadsAllSixteenRegistersAtI : Prop :=
  ∀ (x : Reg) (s : State),
    (s.i.toNat + 16 ≤ 4096 → ∃ t, exec (.ldRegs x) s = .next t ∧
      (∀ k : Reg, t.reg k = s.readByte (s.i.toNat + k.val)) ∧ t.pc = s.pc + 2 ∧ OnlyRegsPc s t) ∧
    (s.i.toNat + 16 > 4096 → ∃ t, exec (.ldRegs x) s = .next t ∧ FaultedFrom s .memReadOutOfRange t)

/-- A register load right after a register dump gives back every register, whatever the instructions between them did to the
registers alone (46_io_timer.md, LD [I] and LD Vx, [I]; the load reads where the dump stored because Fx55 leaves I as it was, which is
the spec's decision D19, log entry 22; the bound 0x50 is decision D4). -/
def Obligations.LoadAfterDumpRestoresTheRegisters : Prop :=
  ∀ (x y : Reg) (s : State) (v : Vector Byte 16), 0x50 ≤ s.i.toNat → s.i.toNat + 16 ≤ 4096 →
    ∃ t u, exec (.stRegs x) s = .next t ∧ exec (.ldRegs y) { t with v := v } = .next u ∧ u.v = s.v ∧ u.pc = s.pc + 4

/-! ## The draw -/

/-- The pixel that the n-byte sprite at I, drawn at column V[x] and row V[y], sets at a row and column: bit 7 - k of byte j is at
row V[y] + j, column V[x] + k (44_draw.md R181, R182). -/
def spritePixel (s : State) (x y : Reg) (n : Nibble) (r c : Nat) : Bool :=
  decide ((s.reg y).toNat ≤ r ∧ r < (s.reg y).toNat + n.toNat ∧ (s.reg x).toNat ≤ c ∧ c < (s.reg x).toNat + 8) &&
    (s.readByte (s.i.toNat + (r - (s.reg y).toNat))).getLsbD (7 - (c - (s.reg x).toNat))

/-- The draw raises none of its first three faults (44_draw.md, the draw's checks). -/
def drawInRange (s : State) (x y : Reg) (n : Nibble) : Prop :=
  s.i.toNat + n.toNat ≤ 4096 ∧ (n.toNat = 0 ∨ ((s.reg y).toNat + n.toNat ≤ 32 ∧ (s.reg x).toNat ≤ 63))

/-- R182, R183, and the rest of 44_draw.md: each pixel of the screen is flipped exactly where the sprite has one, pixels past
column 63 are dropped, VF is 1 exactly when a lit pixel was erased, one frame equal to the new screen is emitted, and PC advances.
With n = 0 nothing is drawn. -/
def Obligations.DrawFlipsThePixelsAndReportsACollision : Prop :=
  ∀ (x y : Reg) (n : Nibble) (s : State), drawInRange s x y n → s.frameRxLive = true →
    ∃ t, exec (.drw x y n) s = .next t ∧
      (∀ r c, r < 32 → c < 64 → pixel t.fb r c = (pixel s.fb r c != spritePixel s x y n r c)) ∧
      ((∃ r c, pixel s.fb r c = true ∧ pixel t.fb r c = false) → (t.reg vf).toNat = 1) ∧
      ((¬∃ r c, pixel s.fb r c = true ∧ pixel t.fb r c = false) → (t.reg vf).toNat = 0) ∧
      t.frames = s.frames ++ [t.fb] ∧ t.pc = s.pc + 2 ∧ SameRegsBut s t [vf] ∧
      t = { s with v := t.v, fb := t.fb, frames := t.frames, pc := t.pc } ∧ SameMemory s t

/-- The three checks of a draw, in their order, before any write (44_draw.md; decisions D5, D6, D14, D24). -/
def Obligations.DrawChecksInOrder : Prop :=
  ∀ (x y : Reg) (n : Nibble) (s : State),
    (s.i.toNat + n.toNat > 4096 → ∃ t, exec (.drw x y n) s = .next t ∧ FaultedFrom s .memReadOutOfRange t) ∧
    (s.i.toNat + n.toNat ≤ 4096 → n.toNat > 0 → (s.reg y).toNat + n.toNat > 32 →
      ∃ t, exec (.drw x y n) s = .next t ∧ FaultedFrom s .drawRowOutOfRange t) ∧
    (s.i.toNat + n.toNat ≤ 4096 → n.toNat > 0 → (s.reg y).toNat + n.toNat ≤ 32 → (s.reg x).toNat > 63 →
      ∃ t, exec (.drw x y n) s = .next t ∧ FaultedFrom s .drawColumnOutOfRange t)

/-- Without a live receiver the draw's writes to FB and VF are made, as they would be with one, no frame is emitted, and
ON_FRAME_SEND_FAIL decides: FrameChannelClosed with PC not advanced, or a log record and PC + 2 (44_draw.md, decision D16). -/
def Obligations.DrawWithoutAReceiverFollowsTheParameter : Prop :=
  ∀ (x y : Reg) (n : Nibble) (s : State), drawInRange s x y n → s.frameRxLive = false →
    ∃ t u, exec (.drw x y n) s = .next t ∧ exec (.drw x y n) { s with frameRxLive := true } = .next u ∧
      t.fb = u.fb ∧ t.v = u.v ∧
      (s.cfg.onFrameSendFail = .fault →
        t = { s with v := u.v, fb := u.fb, run := .faulted .frameChannelClosed,
                     log := s.logWith (.faultReport .frameChannelClosed s.pc) }) ∧
      (s.cfg.onFrameSendFail = .logAndContinue →
        t = { s with v := u.v, fb := u.fb, pc := s.pc + 2, log := s.logWith (.frameSendFailed s.pc) })

/-- XOR self-inverse: the same draw twice restores the framebuffer, and the second draw reports a collision exactly when the first
turned on a pixel (44_draw.md R186, an inference the spec marks as derived; x and y other than 0xF, so that the second draw has the
same operands). -/
def Obligations.DrawTwiceRestoresTheFramebuffer : Prop :=
  ∀ (x y : Reg) (n : Nibble) (s : State), drawInRange s x y n → s.frameRxLive = true → x ≠ vf → y ≠ vf →
    ∃ t u, exec (.drw x y n) s = .next t ∧ exec (.drw x y n) t = .next u ∧ u.fb = s.fb ∧
      ((∃ r c, pixel s.fb r c = false ∧ pixel t.fb r c = true) → (u.reg vf).toNat = 1) ∧
      ((¬∃ r c, pixel s.fb r c = false ∧ pixel t.fb r c = true) → (u.reg vf).toNat = 0) ∧
      u.frames = s.frames ++ [t.fb, s.fb]

/-! ## Reset and boot -/

/-- The default GLYPH_ROM, written out a second time from the table of 20_memory.md R57 (PRESUMED, log entry 10): glyphs 0 to F. -/
def defaultGlyphs : List Byte :=
  ([0xF0, 0x90, 0x90, 0x90, 0xF0, 0x20, 0x60, 0x20, 0x20, 0x70, 0xF0, 0x10, 0xF0, 0x80, 0xF0, 0xF0, 0x10, 0xF0, 0x10, 0xF0] ++
   [0x90, 0x90, 0xF0, 0x10, 0x10, 0xF0, 0x80, 0xF0, 0x10, 0xF0, 0xF0, 0x80, 0xF0, 0x90, 0xF0, 0xF0, 0x10, 0x20, 0x40, 0x40]) ++
  ([0xF0, 0x90, 0xF0, 0x90, 0xF0, 0xF0, 0x90, 0xF0, 0x10, 0xF0, 0xF0, 0x90, 0xF0, 0x90, 0x90, 0xE0, 0x90, 0xE0, 0x90, 0xE0] ++
   [0xF0, 0x80, 0x80, 0x80, 0xF0, 0xE0, 0x90, 0x90, 0x90, 0xE0, 0xF0, 0x80, 0xF0, 0x80, 0xF0, 0xF0, 0x80, 0xF0, 0x80, 0x80])

/-- The state at reset under any configuration inputs (10_state.md R20, R37; SP and MEM are the source's, the other values the
spec's decisions D1, D2 and D28; `draws`, `sched` and `logRxLive` are the model's own, log entries 3, 6 and 15, and nothing is said
of them); and the inputs of `State.reset` are the defaults of 00_scope.md R7 (decisions D8, D12, D16, log entries 11 to 13), with the
glyph table of 20_memory.md R57, which the spec takes from general knowledge (D3, log entry 10). SHIFT_SOURCE has no default (R8). -/
def Obligations.ResetState : Prop :=
  ∀ (p : Params),
    let s := State.resetWith p
    (∀ x, s.reg x = 0) ∧ s.i = 0 ∧ s.pc = 0x200 ∧ s.sp = 0 ∧ (∀ k : Fin 16, s.stack[k.val] = 0) ∧ s.dt = 0 ∧ s.st = 0 ∧
    (∀ a (h : a < 80), s.readByte a = p.glyphRom[a]) ∧ (∀ a, 80 ≤ a → s.readByte a = 0) ∧ (∀ r, fbRow s.fb r = 0) ∧
    s.keys.mask = 0 ∧ s.keys.last = none ∧ s.run = .running ∧ s.frames = [] ∧ s.log = [] ∧ s.frameRxLive = true ∧
    s.cfg = p ∧ State.reset = State.resetWith Config.defaults ∧
    Config.defaults.zeroFamilyKey = .addr12 ∧ Config.defaults.keywaitStale = .ignore ∧
    Config.defaults.onFrameSendFail = .fault ∧ Config.defaults.glyphRom.toList = defaultGlyphs

/-- Boot: a ROM of at most 3584 bytes stands at 0x200 with the glyphs and zeros around it, the log holds its LoadConfirmation, and
everything else is as at reset; a longer ROM, or one that can not be read, leaves no state (70_reset_and_hazards.md R300 to R304;
what State.reset and boot each stand for is the model's choice, log entry 16). -/
def Obligations.BootLoadsTheRomOrFails : Prop :=
  ∀ (p : Params) (rom : List Byte),
    (rom.length ≤ 3584 → ∃ t, boot p (some rom) = .next t ∧
      (∀ a (h : a < 80), t.readByte a = p.glyphRom[a]) ∧
      (∀ k (h : k < rom.length), t.readByte (0x200 + k) = rom[k]) ∧
      (∀ a, 80 ≤ a → a < 0x200 ∨ 0x200 + rom.length ≤ a → t.readByte a = 0) ∧
      t.log = [.loadConfirmation rom.length] ∧
      t = { State.resetWith p with mem := t.mem, log := t.log }) ∧
    (rom.length > 3584 → boot p (some rom) = .fault .romTooLarge) ∧
    boot p none = .fault .romUnreadable

/-- The invariant holds at reset, under any configuration inputs. -/
def Obligations.ResetMeetsTheInvariant : Prop := ∀ (p : Params), (State.resetWith p).Inv

/-! ## The whole machine -/

/-- Every step of every state answers a next state: no instruction, no event and no fault of R242 leaves the machine without one
(that a fault is a state is the model's reading of R241, log entry 1). -/
def Obligations.EveryStepAnswersANextState : Prop :=
  (∀ (s : State), ∃ t, step s = .next t) ∧ ∀ (i : Instr) (s : State), ∃ t, exec i s = .next t

/-- Every step keeps the invariant: memory stays canonical, PC stays at most 0x10FE, every stack entry in use stays the address of an
executed 2nnn, and a waiting core's PC stays fetchable (10_state.md R25, R27, inferences the spec marks as derived). -/
def Obligations.EveryStepKeepsTheInvariant : Prop :=
  ∀ (s t : State), s.Inv → step s = .next t → t.Inv

/-- From every ROM that boots, under every configuration and every schedule, a run of any length reaches a state, which meets the
invariant and whose glyph region is the configuration's glyph ROM. -/
def Obligations.EveryBootedRunKeepsTheInvariant : Prop :=
  ∀ (p : Params) (rom : List Byte) (s : State) (sched : List Event) (n : Nat), boot p (some rom) = .next s →
    ∃ t : State, Sys2Proof.core.run n { s with sched := sched } = .next t ∧ t.Inv ∧ t.cfg = p ∧
      ∀ a (h : a < 80), t.readByte a = p.glyphRom[a]

/-- Only Fx33 and Fx55 write memory, the only bytes they write are their own, and no step changes the glyph region (20_memory.md,
the table of accesses and the regions; decision D4). -/
def Obligations.OnlyStoresChangeMemoryAndNeverTheGlyphs : Prop :=
  ∀ (s t : State), step s = .next t →
    (∀ a, a < 0x50 → t.readByte a = s.readByte a) ∧
    (SameMemory s t ∨
      (∃ x, s.executes (.ldB x) ∧ SameMemoryOutside s t s.storeAddr 3) ∨
      (∃ x, s.executes (.stRegs x) ∧ SameMemoryOutside s t s.storeAddr 16))

/-- Only 00E0 and Dxyn change the framebuffer; FRAMES grows only by a draw's one frame, the new framebuffer; LOG only grows
(10_state.md R30, R34). -/
def Obligations.FramebufferAndStreamsChangeOnlyAsStated : Prop :=
  ∀ (s t : State), step s = .next t →
    (t.fb = s.fb ∨ s.executes .cls ∨ ∃ x y n, s.executes (.drw x y n)) ∧
    (t.frames = s.frames ∨ ((∃ x y n, s.executes (.drw x y n)) ∧ t.frames = s.frames ++ [t.fb])) ∧
    (t.log = s.log ∨ ∃ r, t.log = s.log ++ [r])

/-- I is written only by Annn, Fx1E and Fx29 (10_state.md R23, decision D19). -/
def Obligations.IndexRegisterHasThreeWriters : Prop :=
  ∀ (s t : State), step s = .next t → t.i ≠ s.i →
    (∃ nnn, s.executes (.ldI nnn)) ∨ (∃ x, s.executes (.addI x)) ∨ (∃ x, s.executes (.ldF x))

/-- R26: only 2nnn pushes, writing STACK[SP] and then incrementing SP; only 00EE pops, decrementing SP and then reading STACK[SP];
SP is 0 at reset and changes in no other way. -/
def Obligations.OnlyCallPushesAndOnlyRetPops : Prop :=
  (∀ p, (State.resetWith p).sp = 0) ∧
  ∀ (s t : State), step s = .next t →
    (t.sp = s.sp ∧ t.stack = s.stack) ∨
    ((∃ nnn, s.executes (.call nnn)) ∧ t.sp.val = s.sp.val + 1 ∧
      ∀ k : Fin 16, t.stack[k.val] = if k.val = s.sp.val then s.pc else s.stack[k.val]) ∨
    (s.executes .ret ∧ t.sp.val + 1 = s.sp.val ∧ t.stack = s.stack ∧
      ∀ k : Fin 16, k.val = t.sp.val → t.pc = s.stack[k.val] + 2)

/-- DT is written only by a tick, which lowers it by at most one, and by Fx15; ST only by a tick and by Fx18; KEYS only by key
events; the configuration by nothing; a receiver's liveness only by its own loss, which makes it false, so that a receiver once lost
stays lost (10_state.md R28, R31; 60_exceptions.md R275;
70_reset_and_hazards.md R312, an inference the spec marks as derived; the log's receiver: log entry 15). -/
def Obligations.TimersKeysReceiversAndConfigurationWriters : Prop :=
  ∀ (s t : State), step s = .next t →
    (t.dt = s.dt ∨ (s.nextEvent.1 = .tick ∧ t.dt.toNat + 1 = s.dt.toNat) ∨
      ∃ x, s.executes (.ldDTVx x) ∧ t.dt = s.reg x) ∧
    (t.st = s.st ∨ (s.nextEvent.1 = .tick ∧ t.st.toNat + 1 = s.st.toNat) ∨
      ∃ x, s.executes (.ldSTVx x) ∧ t.st = s.reg x) ∧
    (t.keys = s.keys ∨ ∃ e, s.nextEvent.1 = .key e) ∧
    t.cfg = s.cfg ∧
    (t.frameRxLive = s.frameRxLive ∨ (s.nextEvent.1 = .frameRxLost ∧ t.frameRxLive = false)) ∧
    (t.logRxLive = s.logRxLive ∨ (s.nextEvent.1 = .logRxLost ∧ t.logRxLive = false))

/-- The changes of RUN: a running core halts, waits, faults or is stopped only as the table of outcomes says; a wait ends only by a
press, an allowed stale press or a host stop; an ended run stays as it ended (10_state.md R32; 60_exceptions.md R240, R277, R281). -/
def Obligations.RunChangesOnlyAsStated : Prop :=
  ∀ (s t : State), step s = .next t →
    (s.run = .running → t.run = .running ∨
      (t.run = .halted ∧ s.executes .halt) ∨
      (∃ x, t.run = .waiting x ∧ s.executes (.ldVxK x)) ∨
      (∃ code, t.run = .faulted code ∧ s.nextEvent.1 = .core) ∨
      (t.run = .stopped ∧ s.nextEvent.1 = .hostStop)) ∧
    (∀ x, s.run = .waiting x → t.run = .waiting x ∨
      (t.run = .running ∧ ∃ e, s.nextEvent.1 = .key e ∧ e.pressed = true) ∨
      (t.run = .running ∧ s.nextEvent.1 = .acceptStalePress ∧ s.cfg.keywaitStale = .mayAccept) ∨
      (t.run = .stopped ∧ s.nextEvent.1 = .hostStop)) ∧
    (s.ended = true → t.run = s.run)

/-- Once a run has ended, no step changes anything but the timers (ticks), the key cell (key events), the receivers' liveness and
the schedule (60_exceptions.md R261, R279; test vector V-SYS-7). -/
def Obligations.AnEndedRunIsFrozen : Prop :=
  ∀ (s t : State), s.ended = true → step s = .next t →
    t = { s with dt := t.dt, st := t.st, keys := t.keys, frameRxLive := t.frameRxLive, logRxLive := t.logRxLive,
                 sched := t.sched } ∧ SameMemory s t

/-- Faults are precise: a step that raises one leaves PC at the faulting instruction, and every fault but FrameChannelClosed leaves
the state as it was, except for RUN and LOG (60_exceptions.md R243, decision D14; the schedule has moved on, log entry 3). -/
def Obligations.FaultsArePrecise : Prop :=
  ∀ (s t : State) (code : FaultCode), step s = .next t → s.ended = false → t.run = .faulted code →
    t.pc = s.pc ∧ t.log = s.logWith (.faultReport code s.pc) ∧
    (code ≠ .frameChannelClosed → t = { s with run := t.run, log := t.log, sched := t.sched } ∧ SameMemory s t)

/-- Which instructions raise which fault, and when (60_exceptions.md R242, whose numbering and codes 4, 6, 7, 8 and 9 are the spec's
decisions). -/
def Obligations.FaultCodesAreRaisedOnlyAsTabled : Prop :=
  ∀ (i : Instr) (s t : State) (code : FaultCode), s.isFaulted = false → exec i s = .next t → t.run = .faulted code →
    match code with
    | .fetchOutOfRange => False
    | .memReadOutOfRange =>
      (∃ x y n, i = .drw x y n ∧ s.i.toNat + n.toNat > 4096) ∨ (∃ x, i = .ldRegs x ∧ s.i.toNat + 16 > 4096)
    | .memWriteOutOfRange =>
      (∃ x, i = .ldB x ∧ s.i.toNat + 3 > 4096) ∨ (∃ x, i = .stRegs x ∧ s.i.toNat + 16 > 4096)
    | .glyphRegionWrite => ((∃ x, i = .ldB x) ∨ (∃ x, i = .stRegs x)) ∧ s.i.toNat < 0x50
    | .drawRowOutOfRange => ∃ x y n, i = .drw x y n ∧ n.toNat > 0 ∧ (s.reg y).toNat + n.toNat > 32
    | .drawColumnOutOfRange => ∃ x y n, i = .drw x y n ∧ n.toNat > 0 ∧ (s.reg x).toNat > 63
    | .stackOverflow => (∃ nnn, i = .call nnn) ∧ s.sp.val = 16
    | .stackUnderflow => i = .ret ∧ s.sp.val = 0
    | .keyIndexOutOfRange => ∃ x, (i = .skp x ∨ i = .sknp x) ∧ (s.reg x).toNat > 15
    | .frameChannelClosed => (∃ x y n, i = .drw x y n) ∧ s.frameRxLive = false ∧ s.cfg.onFrameSendFail = .fault

/-- Nothing reads ST, FRAMES or LOG: with ST, FRAMES and LOG exchanged for any others, a step makes the same change to everything else,
appends the same frames and the same records, and gives ST the value that a tick, Fx18, or neither of them gives it (10_state.md R28,
R34; 60_exceptions.md R263, decision D27; the schedule: log entry 3). -/
def Obligations.NothingReadsTheSoundTimerOrTheStreams : Prop :=
  ∀ (s t : State) (st : Byte) (frames : List Frame) (log : List LogRecord), step s = .next t →
    ∃ st' fs ls, t.frames = s.frames ++ fs ∧ t.log = s.log ++ ls ∧
      step { s with st := st, frames := frames, log := log } =
        .next { t with st := st', frames := frames ++ fs, log := log ++ ls } ∧
      (s.nextEvent.1 = .tick → st'.toNat = st.toNat - 1 ∧ t.st.toNat = s.st.toNat - 1) ∧
      (∀ x, s.executes (.ldSTVx x) → st' = s.reg x ∧ t.st = s.reg x) ∧
      (s.nextEvent.1 ≠ .tick → (∀ x, ¬s.executes (.ldSTVx x)) → st' = st ∧ t.st = s.st)

/-- Canonical memories that read alike are equal, so that equal machines are equal data (the form is the model's own, log entry 17;
20_memory.md, the regions). -/
def Obligations.CanonicalMemoriesThatReadAlikeAreEqual : Prop :=
  ∀ (rom : GlyphRom) (m m' : List Host.Cell), Memory.wf rom m = true → Memory.wf rom m' = true →
    (∀ a, Memory.read rom m a = Memory.read rom m' a) → m = m'
end

