-- ==== Sys2Proof/Laws/Draw.lean ====
section
/-! SUPPORT. What a sprite draw does, pixel by pixel (44_draw.md R181 to R183, 10_state.md R30). -/

namespace Sys2Proof.Machine

/-! ### Pixels and rows -/

theorem pixel_eq_row {f : Frame} {r c : Nat} (hc : c < 64) : pixel f r c = (fbRow f r).getLsbD (63 - c) := by
  unfold pixel fbRow
  split <;> simp [hc]

/-- Two framebuffers with the same pixels are equal. -/
theorem frame_ext {f g : Frame} (h : ∀ r c, r < 32 → c < 64 → pixel f r c = pixel g r c) : f = g := by
  apply Vector.ext
  intro r hr
  apply BitVec.eq_of_getLsbD_eq
  intro k hk
  have := h r (63 - k) hr (by omega)
  rw [pixel_eq_row (by omega), pixel_eq_row (by omega)] at this
  have e : 63 - (63 - k) = k := by omega
  simpa [fbRow, hr, e] using this

theorem fbRow_fbSetRow_same {f : Frame} {r : Nat} (w : Row) (h : r < 32) : fbRow (fbSetRow f r w) r = w := by
  simp [fbRow, fbSetRow, h]

theorem fbRow_fbSetRow_ne {f : Frame} {r r' : Nat} (w : Row) (h : r' ≠ r) :
    fbRow (fbSetRow f r w) r' = fbRow f r' := by
  unfold fbRow fbSetRow
  split
  · split
    · exact Vector.getElem_set_ne _ _ (Ne.symm h)
    · rfl
  · rfl

/-! ### The mask (R182) -/

/-- The mask's pixel at a column: bit 7 - k of the byte at column cx + k, and nothing past column 63. -/
theorem spriteMask_pixel (b cx : Byte) {c : Nat} (hc : c < 64) :
    (spriteMask b cx).getLsbD (63 - c) =
      (decide (cx.toNat ≤ c ∧ c < cx.toNat + 8) && b.getLsbD (7 - (c - cx.toNat))) := by
  simp only [spriteMask, BitVec.getLsbD_ushiftRight, BitVec.getLsbD_shiftLeft, BitVec.getLsbD_setWidth]
  by_cases h1 : cx.toNat ≤ c
  · by_cases h2 : c < cx.toNat + 8
    · have e : cx.toNat + (63 - c) - 56 = 7 - (c - cx.toNat) := by omega
      have a1 : cx.toNat + (63 - c) < 64 := by omega
      have a2 : ¬ cx.toNat + (63 - c) < 56 := by omega
      have a3 : 7 - (c - cx.toNat) < 64 := by omega
      simp [h1, h2, e, a1, a2, a3]
    · have a2 : cx.toNat + (63 - c) < 56 := by omega
      simp [h2, a2]
  · have a1 : ¬ cx.toNat + (63 - c) < 64 := by omega
    simp [h1, a1]

theorem rowCollides_iff (old m : Row) :
    rowCollides old m = true ↔ ∃ c, c < 64 ∧ old.getLsbD (63 - c) = true ∧ m.getLsbD (63 - c) = true := by
  simp only [rowCollides, bne_iff_ne, ne_eq]
  constructor
  · intro h
    by_contra hn
    apply h
    apply BitVec.eq_of_getLsbD_eq
    intro k hk
    have e : 63 - (63 - k) = k := by omega
    refine Eq.trans ?_ (BitVec.getLsbD_zero (w := 64)).symm
    rw [BitVec.getLsbD_and, Bool.and_eq_false_iff]
    by_contra hb
    rw [not_or, Bool.not_eq_false, Bool.not_eq_false] at hb
    exact hn ⟨63 - k, by omega, by rw [e]; exact hb.1, by rw [e]; exact hb.2⟩
  · rintro ⟨c, _, h1, h2⟩ h
    have := congrArg (fun v => BitVec.getLsbD v (63 - c)) h
    simp [h1, h2] at this

/-! ### The loop (R180) -/

/-- The pixel that the bytes `bs`, drawn from row `r0` on at column cx, set at a row and column. -/
def bytesPixel (cx : Byte) (bs : List Byte) (r0 r c : Nat) : Bool :=
  decide (r0 ≤ r) && (match bs[r - r0]? with
    | some b => decide (cx.toNat ≤ c ∧ c < cx.toNat + 8) && b.getLsbD (7 - (c - cx.toNat))
    | none => false)

theorem bytesPixel_nil (cx : Byte) (r0 r c : Nat) : bytesPixel cx [] r0 r c = false := by simp [bytesPixel]

theorem bytesPixel_head (cx b : Byte) (bs : List Byte) (r0 c : Nat) (hc : c < 64) :
    bytesPixel cx (b :: bs) r0 r0 c = (spriteMask b cx).getLsbD (63 - c) := by
  simp [bytesPixel, spriteMask_pixel b cx hc]

theorem bytesPixel_tail (cx b : Byte) (bs : List Byte) {r0 r : Nat} (c : Nat) (h : r ≠ r0) :
    bytesPixel cx (b :: bs) r0 r c = bytesPixel cx bs (r0 + 1) r c := by
  unfold bytesPixel
  by_cases hr : r0 ≤ r
  · have e : r - r0 = (r - (r0 + 1)) + 1 := by omega
    have h1 : r0 + 1 ≤ r := by omega
    simp [hr, h1, e]
  · have h1 : ¬ r0 + 1 ≤ r := by omega
    simp [hr, h1]

theorem bytesPixel_tail_above (cx : Byte) (bs : List Byte) (r0 c : Nat) : bytesPixel cx bs (r0 + 1) r0 c = false := by
  simp [bytesPixel]

/-- Every pixel is flipped exactly where the sprite has one. -/
theorem drawBytes_pixel (cx : Byte) (bs : List Byte) :
    ∀ (r0 : Nat) (f : Frame) (hit : Bool) (r c : Nat), r0 + bs.length ≤ 32 → c < 64 →
      pixel (drawBytes cx bs r0 (f, hit)).1 r c = (pixel f r c != bytesPixel cx bs r0 r c) := by
  induction bs with
  | nil => intro r0 f hit r c _ _; simp [drawBytes, bytesPixel_nil]
  | cons b bs ih =>
    intro r0 f hit r c hb hc
    simp only [List.length_cons] at hb
    simp only [drawBytes]
    rw [ih _ _ _ _ _ (by omega) hc, pixel_eq_row hc, pixel_eq_row hc]
    by_cases h : r = r0
    · subst h
      rw [fbRow_fbSetRow_same _ (by omega), bytesPixel_tail_above, bytesPixel_head _ _ _ _ _ hc]
      simp
    · rw [fbRow_fbSetRow_ne _ h, bytesPixel_tail _ _ _ _ h]

/-- The collision is the union of the rows' tests: some lit pixel lies under the sprite. -/
theorem drawBytes_hit (cx : Byte) (bs : List Byte) :
    ∀ (r0 : Nat) (f : Frame) (hit : Bool), r0 + bs.length ≤ 32 →
      ((drawBytes cx bs r0 (f, hit)).2 = true ↔
        hit = true ∨ ∃ r c, c < 64 ∧ pixel f r c = true ∧ bytesPixel cx bs r0 r c = true) := by
  induction bs with
  | nil => intro r0 f hit _; simp [drawBytes, bytesPixel_nil]
  | cons b bs ih =>
    intro r0 f hit hb
    simp only [List.length_cons] at hb
    simp only [drawBytes]
    rw [ih _ _ _ (by omega), Bool.or_eq_true, rowCollides_iff, or_assoc]
    apply or_congr_right
    constructor
    · rintro (⟨c, hc, h1, h2⟩ | ⟨r, c, hc, h1, h2⟩)
      · exact ⟨r0, c, hc, by rw [pixel_eq_row hc]; exact h1, by rw [bytesPixel_head _ _ _ _ _ hc]; exact h2⟩
      · have hr : r ≠ r0 := by rintro rfl; simp [bytesPixel_tail_above] at h2
        refine ⟨r, c, hc, ?_, by rw [bytesPixel_tail _ _ _ _ hr]; exact h2⟩
        rw [pixel_eq_row hc, fbRow_fbSetRow_ne _ hr, ← pixel_eq_row hc] at h1
        exact h1
    · rintro ⟨r, c, hc, h1, h2⟩
      by_cases hr : r = r0
      · subst hr
        exact .inl ⟨c, hc, by rw [pixel_eq_row hc] at h1; exact h1, by rw [bytesPixel_head _ _ _ _ _ hc] at h2; exact h2⟩
      · refine .inr ⟨r, c, hc, ?_, by rw [bytesPixel_tail _ _ _ _ hr] at h2; exact h2⟩
        rw [pixel_eq_row hc, fbRow_fbSetRow_ne _ hr, ← pixel_eq_row hc]
        exact h1

end Sys2Proof.Machine
end

