-- ==== Sys2Proof/Laws/Encoding.lean ====
section
/-! SUPPORT. The fields of a word that the encoder builds, and what the fields of any word are as numbers (30_encoding.md
R81). -/

namespace Sys2Proof

theorem append_toNat {m n : Nat} (a : BitVec m) (b : BitVec n) : (a ++ b).toNat = a.toNat * 2 ^ n + b.toNat := by
  rw [BitVec.toNat_append, ← Nat.shiftLeft_add_eq_or_of_lt b.isLt, Nat.shiftLeft_eq]

/-! ### Fields as numbers (R81) -/

theorem fieldMode_toNat (w : Word) : (fieldMode w).toNat = w.toNat / 4096 := by
  have := w.isLt
  simp only [fieldMode, BitVec.extractLsb'_toNat, Nat.shiftRight_eq_div_pow]
  omega

theorem fieldX_toNat (w : Word) : (fieldX w).toNat = w.toNat / 256 % 16 := by
  simp [fieldX, BitVec.extractLsb'_toNat, Nat.shiftRight_eq_div_pow]

theorem fieldY_toNat (w : Word) : (fieldY w).toNat = w.toNat / 16 % 16 := by
  simp [fieldY, BitVec.extractLsb'_toNat, Nat.shiftRight_eq_div_pow]

theorem fieldZ_toNat (w : Word) : (fieldZ w).toNat = w.toNat % 16 := by
  simp [fieldZ, BitVec.extractLsb'_toNat]

theorem fieldNum_toNat (w : Word) : (fieldNum w).toNat = w.toNat % 256 := by
  simp [fieldNum, BitVec.extractLsb'_toNat]

theorem fieldAddr_toNat (w : Word) : (fieldAddr w).toNat = w.toNat % 4096 := by
  simp [fieldAddr, BitVec.extractLsb'_toNat]

/-! ### Registers -/

theorem regBits_toNat (x : Reg) : (regBits x).toNat = x.val := by
  have := x.isLt
  simp only [regBits, BitVec.toNat_ofNat]
  omega

@[simp] theorem regOf_regBits (x : Reg) : regOf (regBits x) = x := Fin.ext (regBits_toNat x)

@[simp] theorem regBits_regOf (f : Nibble) : regBits (regOf f) = f := by
  apply BitVec.eq_of_toNat_eq
  rw [regBits_toNat]; rfl

/-! ### The encoder's three shapes -/

theorem wordAddr_toNat (m : Nibble) (nnn : Addr12) : (wordAddr m nnn).toNat = m.toNat * 4096 + nnn.toNat :=
  append_toNat m nnn

theorem wordImm_toNat (m : Nibble) (x : Reg) (nn : Byte) :
    (wordImm m x nn).toNat = m.toNat * 4096 + x.val * 256 + nn.toNat := by
  have h : (wordImm m x nn).toNat = m.toNat * 4096 + (regBits x ++ nn).toNat := append_toNat m (regBits x ++ nn)
  rw [h, append_toNat, regBits_toNat]
  omega

theorem wordReg_toNat (m : Nibble) (x y : Reg) (z : Nibble) :
    (wordReg m x y z).toNat = m.toNat * 4096 + x.val * 256 + y.val * 16 + z.toNat := by
  have h : (wordReg m x y z).toNat = m.toNat * 4096 + (regBits x ++ (regBits y ++ z)).toNat :=
    append_toNat m (regBits x ++ (regBits y ++ z))
  rw [h, append_toNat, append_toNat, regBits_toNat, regBits_toNat]
  omega

section Fields
variable (m : Nibble) (nnn : Addr12) (x y : Reg) (nn : Byte) (z : Nibble)

@[simp] theorem fieldMode_wordAddr : fieldMode (wordAddr m nnn) = m := by
  apply BitVec.eq_of_toNat_eq
  rw [fieldMode_toNat, wordAddr_toNat]
  have := nnn.isLt; omega

@[simp] theorem fieldAddr_wordAddr : fieldAddr (wordAddr m nnn) = nnn := by
  apply BitVec.eq_of_toNat_eq
  rw [fieldAddr_toNat, wordAddr_toNat]
  have := nnn.isLt; omega

@[simp] theorem fieldMode_wordImm : fieldMode (wordImm m x nn) = m := by
  apply BitVec.eq_of_toNat_eq
  rw [fieldMode_toNat, wordImm_toNat]
  have := nn.isLt; have := x.isLt; omega

@[simp] theorem regX_wordImm : regX (wordImm m x nn) = x := by
  apply Fin.ext
  show (fieldX _).toNat = _
  rw [fieldX_toNat, wordImm_toNat]
  have := nn.isLt; have := x.isLt; omega

@[simp] theorem fieldNum_wordImm : fieldNum (wordImm m x nn) = nn := by
  apply BitVec.eq_of_toNat_eq
  rw [fieldNum_toNat, wordImm_toNat]
  have := nn.isLt; omega

@[simp] theorem fieldMode_wordReg : fieldMode (wordReg m x y z) = m := by
  apply BitVec.eq_of_toNat_eq
  rw [fieldMode_toNat, wordReg_toNat]
  have := z.isLt; have := x.isLt; have := y.isLt; omega

@[simp] theorem regX_wordReg : regX (wordReg m x y z) = x := by
  apply Fin.ext
  show (fieldX _).toNat = _
  rw [fieldX_toNat, wordReg_toNat]
  have := z.isLt; have := x.isLt; have := y.isLt; omega

@[simp] theorem regY_wordReg : regY (wordReg m x y z) = y := by
  apply Fin.ext
  show (fieldY _).toNat = _
  rw [fieldY_toNat, wordReg_toNat]
  have := z.isLt; have := x.isLt; have := y.isLt; omega

@[simp] theorem fieldZ_wordReg : fieldZ (wordReg m x y z) = z := by
  apply BitVec.eq_of_toNat_eq
  rw [fieldZ_toNat, wordReg_toNat]
  have := z.isLt; omega

end Fields

/-- A word is determined by its mode, x, y and z. -/
theorem word_eq_of_fields {v w : Word} (hm : fieldMode v = fieldMode w) (hx : regX v = regX w)
    (hn : fieldNum v = fieldNum w) : v = w := by
  apply BitVec.eq_of_toNat_eq
  have h1 := congrArg BitVec.toNat hm
  have h2 : (fieldX v).toNat = (fieldX w).toNat := congrArg Fin.val hx
  have h3 := congrArg BitVec.toNat hn
  simp only [fieldMode_toNat, fieldX_toNat, fieldNum_toNat] at h1 h2 h3
  omega

/-! ### The masks of the opcode map (R86) select fields -/

theorem wordAddr_getLsbD (m : Nibble) (nnn : Addr12) (k : Nat) :
    (wordAddr m nnn).getLsbD k = if k < 12 then nnn.getLsbD k else m.getLsbD (k - 12) :=
  BitVec.getLsbD_append

theorem wordImm_getLsbD (m : Nibble) (x : Reg) (nn : Byte) (k : Nat) : (wordImm m x nn).getLsbD k =
    if k < 8 then nn.getLsbD k else if k < 12 then (regBits x).getLsbD (k - 8) else m.getLsbD (k - 12) := by
  have h : (wordImm m x nn).getLsbD k =
      if k < 12 then (regBits x ++ nn).getLsbD k else m.getLsbD (k - 12) := BitVec.getLsbD_append
  rw [h, BitVec.getLsbD_append]
  (repeat' split) <;> first | rfl | omega

theorem wordReg_getLsbD (m : Nibble) (x y : Reg) (z : Nibble) (k : Nat) : (wordReg m x y z).getLsbD k =
    if k < 4 then z.getLsbD k else if k < 8 then (regBits y).getLsbD (k - 4)
    else if k < 12 then (regBits x).getLsbD (k - 8) else m.getLsbD (k - 12) := by
  have h : (wordReg m x y z).getLsbD k =
      if k < 12 then (regBits x ++ (regBits y ++ z)).getLsbD k else m.getLsbD (k - 12) := BitVec.getLsbD_append
  have h2 : (regBits x ++ (regBits y ++ z)).getLsbD k =
      if k < 8 then (regBits y ++ z).getLsbD k else (regBits x).getLsbD (k - 8) := BitVec.getLsbD_append
  rw [h, h2, BitVec.getLsbD_append]
  (repeat' split) <;> first | rfl | omega

theorem regBits_zero : regBits 0 = 0 := rfl

/-- The mask of mode. -/
theorem and_F000 (w : Word) : w &&& 0xF000 = wordAddr (fieldMode w) 0 := by
  apply BitVec.eq_of_getLsbD_eq
  intro k hk
  rw [wordAddr_getLsbD, BitVec.getLsbD_and]
  interval_cases k <;> simp [fieldMode]

/-- The mask of mode and z. -/
theorem and_F00F (w : Word) : w &&& 0xF00F = wordReg (fieldMode w) 0 0 (fieldZ w) := by
  apply BitVec.eq_of_getLsbD_eq
  intro k hk
  rw [wordReg_getLsbD, BitVec.getLsbD_and, regBits_zero]
  interval_cases k <;> simp [fieldMode, fieldZ]

/-- The mask of mode and num. -/
theorem and_F0FF (w : Word) : w &&& 0xF0FF = wordImm (fieldMode w) 0 (fieldNum w) := by
  apply BitVec.eq_of_getLsbD_eq
  intro k hk
  rw [wordImm_getLsbD, BitVec.getLsbD_and, regBits_zero]
  interval_cases k <;> simp [fieldMode, fieldNum]

/-- The bytes of a word, put together again, are the word (20_memory.md R61). -/
@[simp] theorem wordOfBytes_bytesOfWord (w : Word) :
    wordOfBytes (w.extractLsb' 8 8) (w.extractLsb' 0 8) = w := by
  apply BitVec.eq_of_toNat_eq
  have h : (wordOfBytes (w.extractLsb' 8 8) (w.extractLsb' 0 8)).toNat
      = (w.extractLsb' 8 8).toNat * 256 + (w.extractLsb' 0 8).toNat := append_toNat _ _
  have := w.isLt
  rw [h]
  simp only [BitVec.extractLsb'_toNat, Nat.shiftRight_eq_div_pow]
  omega

theorem wordOfBytes_toNat (hi lo : Byte) : (wordOfBytes hi lo).toNat = hi.toNat * 256 + lo.toNat := append_toNat hi lo

end Sys2Proof
end

