-- ==== Sys2Proof/Laws/Memory.lean ====
section
/-! SUPPORT. The laws of memory: a read after a write, and that every write keeps the canonical form (`Memory.wf`). -/

namespace Sys2Proof.Machine

variable {rom : GlyphRom} {m : List Host.Cell}

/-! ### Reading -/

theorem Memory.lookup_put_same (m : List Host.Cell) (a : Nat) (b : Byte) :
    Memory.lookup (Memory.put m a b) a = some b := by
  induction m with
  | nil => simp [Memory.put, Memory.lookup]
  | cons c m ih =>
    obtain ⟨k, c⟩ := c
    simp only [Memory.put]
    split
    · simp [Memory.lookup]
    · split
      · simp [Memory.lookup]
      · rename_i h; simp [Memory.lookup, Ne.symm h, ih]

theorem Memory.lookup_put_ne (m : List Host.Cell) {a a' : Nat} (b : Byte) (h : a' ≠ a) :
    Memory.lookup (Memory.put m a b) a' = Memory.lookup m a' := by
  induction m with
  | nil => simp [Memory.put, Memory.lookup, Ne.symm h]
  | cons c m ih =>
    obtain ⟨k, c⟩ := c
    simp only [Memory.put]
    split
    · simp [Memory.lookup, Ne.symm h]
    · split
      · rename_i hk; subst hk; simp [Memory.lookup, Ne.symm h]
      · simp [Memory.lookup, ih]

theorem Memory.lookup_erase_same (m : List Host.Cell) (a : Nat) : Memory.lookup (Memory.erase m a) a = none := by
  induction m with
  | nil => simp [Memory.erase, Memory.lookup]
  | cons c m ih =>
    obtain ⟨k, c⟩ := c
    simp only [Memory.erase]
    split
    · exact ih
    · rename_i h; simp [Memory.lookup, h, ih]

theorem Memory.lookup_erase_ne (m : List Host.Cell) {a a' : Nat} (h : a' ≠ a) :
    Memory.lookup (Memory.erase m a) a' = Memory.lookup m a' := by
  induction m with
  | nil => simp [Memory.erase]
  | cons c m ih =>
    obtain ⟨k, c⟩ := c
    simp only [Memory.erase]
    split
    · rename_i hk; subst hk; simp [Memory.lookup, Ne.symm h, ih]
    · simp [Memory.lookup, ih]

/-- Reading the byte just written gives it. -/
theorem Memory.read_write_same (m : List Host.Cell) (a : Nat) (b : Byte) :
    Memory.read rom (Memory.write rom m a b) a = b := by
  unfold Memory.write
  split
  · rename_i h; simp [Memory.read, Memory.lookup_erase_same, h]
  · simp [Memory.read, Memory.lookup_put_same]

/-- A write leaves every other address alone. -/
theorem Memory.read_write_ne (m : List Host.Cell) {a a' : Nat} (b : Byte) (h : a' ≠ a) :
    Memory.read rom (Memory.write rom m a b) a' = Memory.read rom m a' := by
  unfold Memory.write
  split
  · simp [Memory.read, Memory.lookup_erase_ne m h]
  · simp [Memory.read, Memory.lookup_put_ne m b h]

/-- Writing consecutive bytes leaves every address outside them alone. -/
theorem Memory.read_writeBytes_outside (bs : List Byte) :
    ∀ (m : List Host.Cell) (a a' : Nat), (a' < a ∨ a + bs.length ≤ a') →
      Memory.read rom (Memory.writeBytes rom m a bs) a' = Memory.read rom m a' := by
  induction bs with
  | nil => intros; rfl
  | cons b bs ih =>
    intro m a a' h
    simp only [List.length_cons] at h
    rw [Memory.writeBytes, ih _ _ _ (by omega), Memory.read_write_ne _ _ (by omega)]

/-- Byte k of a write of consecutive bytes is read at address a + k. -/
theorem Memory.read_writeBytes_inside (bs : List Byte) :
    ∀ (m : List Host.Cell) (a k : Nat) (h : k < bs.length),
      Memory.read rom (Memory.writeBytes rom m a bs) (a + k) = bs[k] := by
  induction bs with
  | nil => intro _ _ k h; simp at h
  | cons b bs ih =>
    intro m a k h
    cases k with
    | zero =>
      rw [Memory.writeBytes, Memory.read_writeBytes_outside bs _ _ _ (by omega)]
      simpa using Memory.read_write_same m a b
    | succ k =>
      have e : a + (k + 1) = a + 1 + k := by omega
      rw [Memory.writeBytes, e, ih _ _ _ (by simpa using h)]
      simp

@[simp] theorem Memory.readBytes_length (m : List Host.Cell) (a n : Nat) :
    (Memory.readBytes rom m a n).length = n := by
  induction n generalizing a with
  | zero => rfl
  | succ n ih => simp [Memory.readBytes, ih]

/-- Byte k of a read of consecutive bytes is the byte at a + k. -/
theorem Memory.readBytes_getElem (m : List Host.Cell) (a n k : Nat) (h : k < (Memory.readBytes rom m a n).length) :
    (Memory.readBytes rom m a n)[k] = Memory.read rom m (a + k) := by
  induction n generalizing a k with
  | zero => simp [Memory.readBytes] at h
  | succ n ih =>
    cases k with
    | zero => simp [Memory.readBytes]
    | succ k =>
      have e : a + (k + 1) = a + 1 + k := by omega
      simp only [Memory.readBytes, List.getElem_cons_succ, e]
      exact ih _ _ _

/-! ### The canonical form -/

theorem Memory.rising_mono {lo lo' : Nat} (h : lo' ≤ lo) (hm : Memory.rising lo m = true) :
    Memory.rising lo' m = true := by
  cases m with
  | nil => rfl
  | cons c m => simp only [Memory.rising, Bool.and_eq_true, decide_eq_true_eq] at *; exact ⟨by omega, hm.2⟩

theorem Memory.rising_put (m : List Host.Cell) :
    ∀ (lo a : Nat) (b : Byte), Memory.rising lo m = true → lo ≤ a → Memory.rising lo (Memory.put m a b) = true := by
  induction m with
  | nil => intro lo a b _ h; simp [Memory.put, Memory.rising, h]
  | cons c m ih =>
    obtain ⟨k, c⟩ := c
    intro lo a b hm h
    simp only [Memory.rising, Bool.and_eq_true, decide_eq_true_eq] at hm
    simp only [Memory.put]
    split
    · simp only [Memory.rising, Bool.and_eq_true, decide_eq_true_eq]; exact ⟨h, by omega, hm.2⟩
    · split
      · simp only [Memory.rising, Bool.and_eq_true, decide_eq_true_eq]
        rename_i hk; subst hk; exact ⟨h, hm.2⟩
      · simp only [Memory.rising, Bool.and_eq_true, decide_eq_true_eq]
        exact ⟨hm.1, ih _ _ _ hm.2 (by omega)⟩

theorem Memory.rising_erase (m : List Host.Cell) :
    ∀ (lo a : Nat), Memory.rising lo m = true → Memory.rising lo (Memory.erase m a) = true := by
  induction m with
  | nil => intro _ _ h; exact h
  | cons c m ih =>
    obtain ⟨k, c⟩ := c
    intro lo a hm
    simp only [Memory.rising, Bool.and_eq_true, decide_eq_true_eq] at hm
    simp only [Memory.erase]
    split
    · exact ih _ _ (Memory.rising_mono (by omega) hm.2)
    · simp only [Memory.rising, Bool.and_eq_true, decide_eq_true_eq]; exact ⟨hm.1, ih _ _ hm.2⟩

theorem Memory.mem_of_mem_put {c : Host.Cell} :
    ∀ {m : List Host.Cell} {a : Nat} {b : Byte}, c ∈ Memory.put m a b → c = (a, b) ∨ c ∈ m := by
  intro m
  induction m with
  | nil => intro a b h; simpa [Memory.put] using h
  | cons d m ih =>
    obtain ⟨k, d⟩ := d
    intro a b h
    simp only [Memory.put] at h
    split at h
    · simpa using h
    · split at h
      · simp only [List.mem_cons] at h ⊢; tauto
      · simp only [List.mem_cons] at h ⊢
        rcases h with h | h
        · exact .inr (.inl h)
        · rcases ih h with h | h
          · exact .inl h
          · exact .inr (.inr h)

theorem Memory.mem_of_mem_erase {c : Host.Cell} :
    ∀ {m : List Host.Cell} {a : Nat}, c ∈ Memory.erase m a → c ∈ m := by
  intro m
  induction m with
  | nil => intro _ h; exact h
  | cons d m ih =>
    obtain ⟨k, d⟩ := d
    intro a h
    simp only [Memory.erase] at h
    split at h
    · exact List.mem_cons_of_mem _ (ih h)
    · simp only [List.mem_cons] at h ⊢
      exact h.imp id ih

theorem Memory.wf_iff : Memory.wf rom m = true ↔
    Memory.rising 0x50 m = true ∧ ∀ c ∈ m, c.1 < 4096 ∧ c.2 ≠ Memory.unlisted rom c.1 := by
  simp [Memory.wf, List.all_eq_true]

/-- A write to a writable address keeps the canonical form. -/
theorem Memory.wf_write {a : Nat} (b : Byte) (h : Memory.wf rom m = true) (lo : 0x50 ≤ a) (hi : a < 4096) :
    Memory.wf rom (Memory.write rom m a b) = true := by
  rw [Memory.wf_iff] at h ⊢
  unfold Memory.write
  split
  · exact ⟨Memory.rising_erase _ _ _ h.1, fun c hc => h.2 c (Memory.mem_of_mem_erase hc)⟩
  · rename_i hb
    refine ⟨Memory.rising_put _ _ _ _ h.1 lo, fun c hc => ?_⟩
    rcases Memory.mem_of_mem_put hc with rfl | hc
    · exact ⟨hi, hb⟩
    · exact h.2 c hc

/-- So does a write of consecutive bytes inside the writable addresses. -/
theorem Memory.wf_writeBytes (bs : List Byte) :
    ∀ (m : List Host.Cell) (a : Nat), Memory.wf rom m = true → 0x50 ≤ a → a + bs.length ≤ 4096 →
      Memory.wf rom (Memory.writeBytes rom m a bs) = true := by
  induction bs with
  | nil => intro _ _ h _ _; exact h
  | cons b bs ih =>
    intro m a h lo hi
    simp only [List.length_cons] at hi
    exact ih _ _ (Memory.wf_write b h lo (by omega)) (by omega) (by omega)

theorem Memory.wf_nil : Memory.wf rom [] = true := rfl

theorem Memory.lookup_below {lo a : Nat} (h : a < lo) :
    ∀ {m : List Host.Cell}, Memory.rising lo m = true → Memory.lookup m a = none := by
  intro m
  induction m generalizing lo with
  | nil => intro _; rfl
  | cons c m ih =>
    obtain ⟨k, c⟩ := c
    intro hm
    simp only [Memory.rising, Bool.and_eq_true, decide_eq_true_eq] at hm
    have : k ≠ a := by omega
    simp [Memory.lookup, this, ih (lo := k + 1) (by omega) hm.2]

/-- In canonical memory the glyph region reads as the glyph ROM. -/
theorem Memory.read_glyph {a : Nat} (h : Memory.wf rom m = true) (ha : a < 80) :
    Memory.read rom m a = rom[a] := by
  rw [Memory.wf_iff] at h
  simp [Memory.read, Memory.lookup_below (lo := 0x50) (by omega) h.1, Memory.unlisted, ha]

end Sys2Proof.Machine
end

