-- ==== Sys2Proof/Laws/State.lean ====
section
/-! SUPPORT. One lemma per field per update of the state, each true by rfl: no later proof unfolds a record update. -/

namespace Sys2Proof.Machine

variable (s : State)

@[simp] theorem State.setReg_v (x : Reg) (b : Byte) : (s.setReg x b).v = s.v.set x.val b := rfl
@[simp] theorem State.setReg_i (x : Reg) (b : Byte) : (s.setReg x b).i = s.i := rfl
@[simp] theorem State.setReg_pc (x : Reg) (b : Byte) : (s.setReg x b).pc = s.pc := rfl
@[simp] theorem State.setReg_sp (x : Reg) (b : Byte) : (s.setReg x b).sp = s.sp := rfl
@[simp] theorem State.setReg_stack (x : Reg) (b : Byte) : (s.setReg x b).stack = s.stack := rfl
@[simp] theorem State.setReg_dt (x : Reg) (b : Byte) : (s.setReg x b).dt = s.dt := rfl
@[simp] theorem State.setReg_st (x : Reg) (b : Byte) : (s.setReg x b).st = s.st := rfl
@[simp] theorem State.setReg_mem (x : Reg) (b : Byte) : (s.setReg x b).mem = s.mem := rfl
@[simp] theorem State.setReg_fb (x : Reg) (b : Byte) : (s.setReg x b).fb = s.fb := rfl
@[simp] theorem State.setReg_keys (x : Reg) (b : Byte) : (s.setReg x b).keys = s.keys := rfl
@[simp] theorem State.setReg_run (x : Reg) (b : Byte) : (s.setReg x b).run = s.run := rfl
@[simp] theorem State.setReg_frames (x : Reg) (b : Byte) : (s.setReg x b).frames = s.frames := rfl
@[simp] theorem State.setReg_log (x : Reg) (b : Byte) : (s.setReg x b).log = s.log := rfl
@[simp] theorem State.setReg_frameRxLive (x : Reg) (b : Byte) : (s.setReg x b).frameRxLive = s.frameRxLive := rfl
@[simp] theorem State.setReg_logRxLive (x : Reg) (b : Byte) : (s.setReg x b).logRxLive = s.logRxLive := rfl
@[simp] theorem State.setReg_cfg (x : Reg) (b : Byte) : (s.setReg x b).cfg = s.cfg := rfl
@[simp] theorem State.setReg_draws (x : Reg) (b : Byte) : (s.setReg x b).draws = s.draws := rfl
@[simp] theorem State.setReg_sched (x : Reg) (b : Byte) : (s.setReg x b).sched = s.sched := rfl

@[simp] theorem State.setI_v (w : Word) : (s.setI w).v = s.v := rfl
@[simp] theorem State.setI_i (w : Word) : (s.setI w).i = w := rfl
@[simp] theorem State.setI_pc (w : Word) : (s.setI w).pc = s.pc := rfl
@[simp] theorem State.setI_sp (w : Word) : (s.setI w).sp = s.sp := rfl
@[simp] theorem State.setI_stack (w : Word) : (s.setI w).stack = s.stack := rfl
@[simp] theorem State.setI_dt (w : Word) : (s.setI w).dt = s.dt := rfl
@[simp] theorem State.setI_st (w : Word) : (s.setI w).st = s.st := rfl
@[simp] theorem State.setI_mem (w : Word) : (s.setI w).mem = s.mem := rfl
@[simp] theorem State.setI_fb (w : Word) : (s.setI w).fb = s.fb := rfl
@[simp] theorem State.setI_keys (w : Word) : (s.setI w).keys = s.keys := rfl
@[simp] theorem State.setI_run (w : Word) : (s.setI w).run = s.run := rfl
@[simp] theorem State.setI_frames (w : Word) : (s.setI w).frames = s.frames := rfl
@[simp] theorem State.setI_log (w : Word) : (s.setI w).log = s.log := rfl
@[simp] theorem State.setI_frameRxLive (w : Word) : (s.setI w).frameRxLive = s.frameRxLive := rfl
@[simp] theorem State.setI_logRxLive (w : Word) : (s.setI w).logRxLive = s.logRxLive := rfl
@[simp] theorem State.setI_cfg (w : Word) : (s.setI w).cfg = s.cfg := rfl
@[simp] theorem State.setI_draws (w : Word) : (s.setI w).draws = s.draws := rfl
@[simp] theorem State.setI_sched (w : Word) : (s.setI w).sched = s.sched := rfl

@[simp] theorem State.setPc_v (w : Word) : (s.setPc w).v = s.v := rfl
@[simp] theorem State.setPc_i (w : Word) : (s.setPc w).i = s.i := rfl
@[simp] theorem State.setPc_pc (w : Word) : (s.setPc w).pc = w := rfl
@[simp] theorem State.setPc_sp (w : Word) : (s.setPc w).sp = s.sp := rfl
@[simp] theorem State.setPc_stack (w : Word) : (s.setPc w).stack = s.stack := rfl
@[simp] theorem State.setPc_dt (w : Word) : (s.setPc w).dt = s.dt := rfl
@[simp] theorem State.setPc_st (w : Word) : (s.setPc w).st = s.st := rfl
@[simp] theorem State.setPc_mem (w : Word) : (s.setPc w).mem = s.mem := rfl
@[simp] theorem State.setPc_fb (w : Word) : (s.setPc w).fb = s.fb := rfl
@[simp] theorem State.setPc_keys (w : Word) : (s.setPc w).keys = s.keys := rfl
@[simp] theorem State.setPc_run (w : Word) : (s.setPc w).run = s.run := rfl
@[simp] theorem State.setPc_frames (w : Word) : (s.setPc w).frames = s.frames := rfl
@[simp] theorem State.setPc_log (w : Word) : (s.setPc w).log = s.log := rfl
@[simp] theorem State.setPc_frameRxLive (w : Word) : (s.setPc w).frameRxLive = s.frameRxLive := rfl
@[simp] theorem State.setPc_logRxLive (w : Word) : (s.setPc w).logRxLive = s.logRxLive := rfl
@[simp] theorem State.setPc_cfg (w : Word) : (s.setPc w).cfg = s.cfg := rfl
@[simp] theorem State.setPc_draws (w : Word) : (s.setPc w).draws = s.draws := rfl
@[simp] theorem State.setPc_sched (w : Word) : (s.setPc w).sched = s.sched := rfl

@[simp] theorem State.setDt_v (b : Byte) : (s.setDt b).v = s.v := rfl
@[simp] theorem State.setDt_i (b : Byte) : (s.setDt b).i = s.i := rfl
@[simp] theorem State.setDt_pc (b : Byte) : (s.setDt b).pc = s.pc := rfl
@[simp] theorem State.setDt_sp (b : Byte) : (s.setDt b).sp = s.sp := rfl
@[simp] theorem State.setDt_stack (b : Byte) : (s.setDt b).stack = s.stack := rfl
@[simp] theorem State.setDt_dt (b : Byte) : (s.setDt b).dt = b := rfl
@[simp] theorem State.setDt_st (b : Byte) : (s.setDt b).st = s.st := rfl
@[simp] theorem State.setDt_mem (b : Byte) : (s.setDt b).mem = s.mem := rfl
@[simp] theorem State.setDt_fb (b : Byte) : (s.setDt b).fb = s.fb := rfl
@[simp] theorem State.setDt_keys (b : Byte) : (s.setDt b).keys = s.keys := rfl
@[simp] theorem State.setDt_run (b : Byte) : (s.setDt b).run = s.run := rfl
@[simp] theorem State.setDt_frames (b : Byte) : (s.setDt b).frames = s.frames := rfl
@[simp] theorem State.setDt_log (b : Byte) : (s.setDt b).log = s.log := rfl
@[simp] theorem State.setDt_frameRxLive (b : Byte) : (s.setDt b).frameRxLive = s.frameRxLive := rfl
@[simp] theorem State.setDt_logRxLive (b : Byte) : (s.setDt b).logRxLive = s.logRxLive := rfl
@[simp] theorem State.setDt_cfg (b : Byte) : (s.setDt b).cfg = s.cfg := rfl
@[simp] theorem State.setDt_draws (b : Byte) : (s.setDt b).draws = s.draws := rfl
@[simp] theorem State.setDt_sched (b : Byte) : (s.setDt b).sched = s.sched := rfl

@[simp] theorem State.setSt_v (b : Byte) : (s.setSt b).v = s.v := rfl
@[simp] theorem State.setSt_i (b : Byte) : (s.setSt b).i = s.i := rfl
@[simp] theorem State.setSt_pc (b : Byte) : (s.setSt b).pc = s.pc := rfl
@[simp] theorem State.setSt_sp (b : Byte) : (s.setSt b).sp = s.sp := rfl
@[simp] theorem State.setSt_stack (b : Byte) : (s.setSt b).stack = s.stack := rfl
@[simp] theorem State.setSt_dt (b : Byte) : (s.setSt b).dt = s.dt := rfl
@[simp] theorem State.setSt_st (b : Byte) : (s.setSt b).st = b := rfl
@[simp] theorem State.setSt_mem (b : Byte) : (s.setSt b).mem = s.mem := rfl
@[simp] theorem State.setSt_fb (b : Byte) : (s.setSt b).fb = s.fb := rfl
@[simp] theorem State.setSt_keys (b : Byte) : (s.setSt b).keys = s.keys := rfl
@[simp] theorem State.setSt_run (b : Byte) : (s.setSt b).run = s.run := rfl
@[simp] theorem State.setSt_frames (b : Byte) : (s.setSt b).frames = s.frames := rfl
@[simp] theorem State.setSt_log (b : Byte) : (s.setSt b).log = s.log := rfl
@[simp] theorem State.setSt_frameRxLive (b : Byte) : (s.setSt b).frameRxLive = s.frameRxLive := rfl
@[simp] theorem State.setSt_logRxLive (b : Byte) : (s.setSt b).logRxLive = s.logRxLive := rfl
@[simp] theorem State.setSt_cfg (b : Byte) : (s.setSt b).cfg = s.cfg := rfl
@[simp] theorem State.setSt_draws (b : Byte) : (s.setSt b).draws = s.draws := rfl
@[simp] theorem State.setSt_sched (b : Byte) : (s.setSt b).sched = s.sched := rfl

@[simp] theorem State.setRun_v (r : RunState) : (s.setRun r).v = s.v := rfl
@[simp] theorem State.setRun_i (r : RunState) : (s.setRun r).i = s.i := rfl
@[simp] theorem State.setRun_pc (r : RunState) : (s.setRun r).pc = s.pc := rfl
@[simp] theorem State.setRun_sp (r : RunState) : (s.setRun r).sp = s.sp := rfl
@[simp] theorem State.setRun_stack (r : RunState) : (s.setRun r).stack = s.stack := rfl
@[simp] theorem State.setRun_dt (r : RunState) : (s.setRun r).dt = s.dt := rfl
@[simp] theorem State.setRun_st (r : RunState) : (s.setRun r).st = s.st := rfl
@[simp] theorem State.setRun_mem (r : RunState) : (s.setRun r).mem = s.mem := rfl
@[simp] theorem State.setRun_fb (r : RunState) : (s.setRun r).fb = s.fb := rfl
@[simp] theorem State.setRun_keys (r : RunState) : (s.setRun r).keys = s.keys := rfl
@[simp] theorem State.setRun_run (r : RunState) : (s.setRun r).run = r := rfl
@[simp] theorem State.setRun_frames (r : RunState) : (s.setRun r).frames = s.frames := rfl
@[simp] theorem State.setRun_log (r : RunState) : (s.setRun r).log = s.log := rfl
@[simp] theorem State.setRun_frameRxLive (r : RunState) : (s.setRun r).frameRxLive = s.frameRxLive := rfl
@[simp] theorem State.setRun_logRxLive (r : RunState) : (s.setRun r).logRxLive = s.logRxLive := rfl
@[simp] theorem State.setRun_cfg (r : RunState) : (s.setRun r).cfg = s.cfg := rfl
@[simp] theorem State.setRun_draws (r : RunState) : (s.setRun r).draws = s.draws := rfl
@[simp] theorem State.setRun_sched (r : RunState) : (s.setRun r).sched = s.sched := rfl

@[simp] theorem State.setFb_v (f : Frame) : (s.setFb f).v = s.v := rfl
@[simp] theorem State.setFb_i (f : Frame) : (s.setFb f).i = s.i := rfl
@[simp] theorem State.setFb_pc (f : Frame) : (s.setFb f).pc = s.pc := rfl
@[simp] theorem State.setFb_sp (f : Frame) : (s.setFb f).sp = s.sp := rfl
@[simp] theorem State.setFb_stack (f : Frame) : (s.setFb f).stack = s.stack := rfl
@[simp] theorem State.setFb_dt (f : Frame) : (s.setFb f).dt = s.dt := rfl
@[simp] theorem State.setFb_st (f : Frame) : (s.setFb f).st = s.st := rfl
@[simp] theorem State.setFb_mem (f : Frame) : (s.setFb f).mem = s.mem := rfl
@[simp] theorem State.setFb_fb (f : Frame) : (s.setFb f).fb = f := rfl
@[simp] theorem State.setFb_keys (f : Frame) : (s.setFb f).keys = s.keys := rfl
@[simp] theorem State.setFb_run (f : Frame) : (s.setFb f).run = s.run := rfl
@[simp] theorem State.setFb_frames (f : Frame) : (s.setFb f).frames = s.frames := rfl
@[simp] theorem State.setFb_log (f : Frame) : (s.setFb f).log = s.log := rfl
@[simp] theorem State.setFb_frameRxLive (f : Frame) : (s.setFb f).frameRxLive = s.frameRxLive := rfl
@[simp] theorem State.setFb_logRxLive (f : Frame) : (s.setFb f).logRxLive = s.logRxLive := rfl
@[simp] theorem State.setFb_cfg (f : Frame) : (s.setFb f).cfg = s.cfg := rfl
@[simp] theorem State.setFb_draws (f : Frame) : (s.setFb f).draws = s.draws := rfl
@[simp] theorem State.setFb_sched (f : Frame) : (s.setFb f).sched = s.sched := rfl

@[simp] theorem State.setAllRegs_v (w : Vector Byte 16) : (s.setAllRegs w).v = w := rfl
@[simp] theorem State.setAllRegs_i (w : Vector Byte 16) : (s.setAllRegs w).i = s.i := rfl
@[simp] theorem State.setAllRegs_pc (w : Vector Byte 16) : (s.setAllRegs w).pc = s.pc := rfl
@[simp] theorem State.setAllRegs_sp (w : Vector Byte 16) : (s.setAllRegs w).sp = s.sp := rfl
@[simp] theorem State.setAllRegs_stack (w : Vector Byte 16) : (s.setAllRegs w).stack = s.stack := rfl
@[simp] theorem State.setAllRegs_dt (w : Vector Byte 16) : (s.setAllRegs w).dt = s.dt := rfl
@[simp] theorem State.setAllRegs_st (w : Vector Byte 16) : (s.setAllRegs w).st = s.st := rfl
@[simp] theorem State.setAllRegs_mem (w : Vector Byte 16) : (s.setAllRegs w).mem = s.mem := rfl
@[simp] theorem State.setAllRegs_fb (w : Vector Byte 16) : (s.setAllRegs w).fb = s.fb := rfl
@[simp] theorem State.setAllRegs_keys (w : Vector Byte 16) : (s.setAllRegs w).keys = s.keys := rfl
@[simp] theorem State.setAllRegs_run (w : Vector Byte 16) : (s.setAllRegs w).run = s.run := rfl
@[simp] theorem State.setAllRegs_frames (w : Vector Byte 16) : (s.setAllRegs w).frames = s.frames := rfl
@[simp] theorem State.setAllRegs_log (w : Vector Byte 16) : (s.setAllRegs w).log = s.log := rfl
@[simp] theorem State.setAllRegs_frameRxLive (w : Vector Byte 16) : (s.setAllRegs w).frameRxLive = s.frameRxLive := rfl
@[simp] theorem State.setAllRegs_logRxLive (w : Vector Byte 16) : (s.setAllRegs w).logRxLive = s.logRxLive := rfl
@[simp] theorem State.setAllRegs_cfg (w : Vector Byte 16) : (s.setAllRegs w).cfg = s.cfg := rfl
@[simp] theorem State.setAllRegs_draws (w : Vector Byte 16) : (s.setAllRegs w).draws = s.draws := rfl
@[simp] theorem State.setAllRegs_sched (w : Vector Byte 16) : (s.setAllRegs w).sched = s.sched := rfl

@[simp] theorem State.advance_v : (s.advance).v = s.v := rfl
@[simp] theorem State.advance_i : (s.advance).i = s.i := rfl
@[simp] theorem State.advance_pc : (s.advance).pc = s.pc + 2 := rfl
@[simp] theorem State.advance_sp : (s.advance).sp = s.sp := rfl
@[simp] theorem State.advance_stack : (s.advance).stack = s.stack := rfl
@[simp] theorem State.advance_dt : (s.advance).dt = s.dt := rfl
@[simp] theorem State.advance_st : (s.advance).st = s.st := rfl
@[simp] theorem State.advance_mem : (s.advance).mem = s.mem := rfl
@[simp] theorem State.advance_fb : (s.advance).fb = s.fb := rfl
@[simp] theorem State.advance_keys : (s.advance).keys = s.keys := rfl
@[simp] theorem State.advance_run : (s.advance).run = s.run := rfl
@[simp] theorem State.advance_frames : (s.advance).frames = s.frames := rfl
@[simp] theorem State.advance_log : (s.advance).log = s.log := rfl
@[simp] theorem State.advance_frameRxLive : (s.advance).frameRxLive = s.frameRxLive := rfl
@[simp] theorem State.advance_logRxLive : (s.advance).logRxLive = s.logRxLive := rfl
@[simp] theorem State.advance_cfg : (s.advance).cfg = s.cfg := rfl
@[simp] theorem State.advance_draws : (s.advance).draws = s.draws := rfl
@[simp] theorem State.advance_sched : (s.advance).sched = s.sched := rfl

@[simp] theorem State.skipIf_v (c : Bool) : (s.skipIf c).v = s.v := rfl
@[simp] theorem State.skipIf_i (c : Bool) : (s.skipIf c).i = s.i := rfl
@[simp] theorem State.skipIf_pc (c : Bool) : (s.skipIf c).pc = if c then s.pc + 4 else s.pc + 2 := rfl
@[simp] theorem State.skipIf_sp (c : Bool) : (s.skipIf c).sp = s.sp := rfl
@[simp] theorem State.skipIf_stack (c : Bool) : (s.skipIf c).stack = s.stack := rfl
@[simp] theorem State.skipIf_dt (c : Bool) : (s.skipIf c).dt = s.dt := rfl
@[simp] theorem State.skipIf_st (c : Bool) : (s.skipIf c).st = s.st := rfl
@[simp] theorem State.skipIf_mem (c : Bool) : (s.skipIf c).mem = s.mem := rfl
@[simp] theorem State.skipIf_fb (c : Bool) : (s.skipIf c).fb = s.fb := rfl
@[simp] theorem State.skipIf_keys (c : Bool) : (s.skipIf c).keys = s.keys := rfl
@[simp] theorem State.skipIf_run (c : Bool) : (s.skipIf c).run = s.run := rfl
@[simp] theorem State.skipIf_frames (c : Bool) : (s.skipIf c).frames = s.frames := rfl
@[simp] theorem State.skipIf_log (c : Bool) : (s.skipIf c).log = s.log := rfl
@[simp] theorem State.skipIf_frameRxLive (c : Bool) : (s.skipIf c).frameRxLive = s.frameRxLive := rfl
@[simp] theorem State.skipIf_logRxLive (c : Bool) : (s.skipIf c).logRxLive = s.logRxLive := rfl
@[simp] theorem State.skipIf_cfg (c : Bool) : (s.skipIf c).cfg = s.cfg := rfl
@[simp] theorem State.skipIf_draws (c : Bool) : (s.skipIf c).draws = s.draws := rfl
@[simp] theorem State.skipIf_sched (c : Bool) : (s.skipIf c).sched = s.sched := rfl

@[simp] theorem State.push_v (w : Word) (h : s.sp.val < 16) : (s.push w h).v = s.v := rfl
@[simp] theorem State.push_i (w : Word) (h : s.sp.val < 16) : (s.push w h).i = s.i := rfl
@[simp] theorem State.push_pc (w : Word) (h : s.sp.val < 16) : (s.push w h).pc = s.pc := rfl
@[simp] theorem State.push_sp (w : Word) (h : s.sp.val < 16) : (s.push w h).sp = ⟨s.sp.val + 1, by omega⟩ := rfl
@[simp] theorem State.push_stack (w : Word) (h : s.sp.val < 16) : (s.push w h).stack = s.stack.set s.sp.val w := rfl
@[simp] theorem State.push_dt (w : Word) (h : s.sp.val < 16) : (s.push w h).dt = s.dt := rfl
@[simp] theorem State.push_st (w : Word) (h : s.sp.val < 16) : (s.push w h).st = s.st := rfl
@[simp] theorem State.push_mem (w : Word) (h : s.sp.val < 16) : (s.push w h).mem = s.mem := rfl
@[simp] theorem State.push_fb (w : Word) (h : s.sp.val < 16) : (s.push w h).fb = s.fb := rfl
@[simp] theorem State.push_keys (w : Word) (h : s.sp.val < 16) : (s.push w h).keys = s.keys := rfl
@[simp] theorem State.push_run (w : Word) (h : s.sp.val < 16) : (s.push w h).run = s.run := rfl
@[simp] theorem State.push_frames (w : Word) (h : s.sp.val < 16) : (s.push w h).frames = s.frames := rfl
@[simp] theorem State.push_log (w : Word) (h : s.sp.val < 16) : (s.push w h).log = s.log := rfl
@[simp] theorem State.push_frameRxLive (w : Word) (h : s.sp.val < 16) : (s.push w h).frameRxLive = s.frameRxLive := rfl
@[simp] theorem State.push_logRxLive (w : Word) (h : s.sp.val < 16) : (s.push w h).logRxLive = s.logRxLive := rfl
@[simp] theorem State.push_cfg (w : Word) (h : s.sp.val < 16) : (s.push w h).cfg = s.cfg := rfl
@[simp] theorem State.push_draws (w : Word) (h : s.sp.val < 16) : (s.push w h).draws = s.draws := rfl
@[simp] theorem State.push_sched (w : Word) (h : s.sp.val < 16) : (s.push w h).sched = s.sched := rfl

@[simp] theorem State.pop_v : (s.pop).v = s.v := rfl
@[simp] theorem State.pop_i : (s.pop).i = s.i := rfl
@[simp] theorem State.pop_pc : (s.pop).pc = s.pc := rfl
@[simp] theorem State.pop_sp : (s.pop).sp = ⟨s.sp.val - 1, by omega⟩ := rfl
@[simp] theorem State.pop_stack : (s.pop).stack = s.stack := rfl
@[simp] theorem State.pop_dt : (s.pop).dt = s.dt := rfl
@[simp] theorem State.pop_st : (s.pop).st = s.st := rfl
@[simp] theorem State.pop_mem : (s.pop).mem = s.mem := rfl
@[simp] theorem State.pop_fb : (s.pop).fb = s.fb := rfl
@[simp] theorem State.pop_keys : (s.pop).keys = s.keys := rfl
@[simp] theorem State.pop_run : (s.pop).run = s.run := rfl
@[simp] theorem State.pop_frames : (s.pop).frames = s.frames := rfl
@[simp] theorem State.pop_log : (s.pop).log = s.log := rfl
@[simp] theorem State.pop_frameRxLive : (s.pop).frameRxLive = s.frameRxLive := rfl
@[simp] theorem State.pop_logRxLive : (s.pop).logRxLive = s.logRxLive := rfl
@[simp] theorem State.pop_cfg : (s.pop).cfg = s.cfg := rfl
@[simp] theorem State.pop_draws : (s.pop).draws = s.draws := rfl
@[simp] theorem State.pop_sched : (s.pop).sched = s.sched := rfl

@[simp] theorem State.storeBytes_v (a : Nat) (bs : List Byte) : (s.storeBytes a bs).v = s.v := rfl
@[simp] theorem State.storeBytes_i (a : Nat) (bs : List Byte) : (s.storeBytes a bs).i = s.i := rfl
@[simp] theorem State.storeBytes_pc (a : Nat) (bs : List Byte) : (s.storeBytes a bs).pc = s.pc := rfl
@[simp] theorem State.storeBytes_sp (a : Nat) (bs : List Byte) : (s.storeBytes a bs).sp = s.sp := rfl
@[simp] theorem State.storeBytes_stack (a : Nat) (bs : List Byte) : (s.storeBytes a bs).stack = s.stack := rfl
@[simp] theorem State.storeBytes_dt (a : Nat) (bs : List Byte) : (s.storeBytes a bs).dt = s.dt := rfl
@[simp] theorem State.storeBytes_st (a : Nat) (bs : List Byte) : (s.storeBytes a bs).st = s.st := rfl
@[simp] theorem State.storeBytes_mem (a : Nat) (bs : List Byte) : (s.storeBytes a bs).mem = Memory.writeBytes s.cfg.glyphRom s.mem a bs := rfl
@[simp] theorem State.storeBytes_fb (a : Nat) (bs : List Byte) : (s.storeBytes a bs).fb = s.fb := rfl
@[simp] theorem State.storeBytes_keys (a : Nat) (bs : List Byte) : (s.storeBytes a bs).keys = s.keys := rfl
@[simp] theorem State.storeBytes_run (a : Nat) (bs : List Byte) : (s.storeBytes a bs).run = s.run := rfl
@[simp] theorem State.storeBytes_frames (a : Nat) (bs : List Byte) : (s.storeBytes a bs).frames = s.frames := rfl
@[simp] theorem State.storeBytes_log (a : Nat) (bs : List Byte) : (s.storeBytes a bs).log = s.log := rfl
@[simp] theorem State.storeBytes_frameRxLive (a : Nat) (bs : List Byte) : (s.storeBytes a bs).frameRxLive = s.frameRxLive := rfl
@[simp] theorem State.storeBytes_logRxLive (a : Nat) (bs : List Byte) : (s.storeBytes a bs).logRxLive = s.logRxLive := rfl
@[simp] theorem State.storeBytes_cfg (a : Nat) (bs : List Byte) : (s.storeBytes a bs).cfg = s.cfg := rfl
@[simp] theorem State.storeBytes_draws (a : Nat) (bs : List Byte) : (s.storeBytes a bs).draws = s.draws := rfl
@[simp] theorem State.storeBytes_sched (a : Nat) (bs : List Byte) : (s.storeBytes a bs).sched = s.sched := rfl

@[simp] theorem State.emitLog_v (r : LogRecord) : (s.emitLog r).v = s.v := rfl
@[simp] theorem State.emitLog_i (r : LogRecord) : (s.emitLog r).i = s.i := rfl
@[simp] theorem State.emitLog_pc (r : LogRecord) : (s.emitLog r).pc = s.pc := rfl
@[simp] theorem State.emitLog_sp (r : LogRecord) : (s.emitLog r).sp = s.sp := rfl
@[simp] theorem State.emitLog_stack (r : LogRecord) : (s.emitLog r).stack = s.stack := rfl
@[simp] theorem State.emitLog_dt (r : LogRecord) : (s.emitLog r).dt = s.dt := rfl
@[simp] theorem State.emitLog_st (r : LogRecord) : (s.emitLog r).st = s.st := rfl
@[simp] theorem State.emitLog_mem (r : LogRecord) : (s.emitLog r).mem = s.mem := rfl
@[simp] theorem State.emitLog_fb (r : LogRecord) : (s.emitLog r).fb = s.fb := rfl
@[simp] theorem State.emitLog_keys (r : LogRecord) : (s.emitLog r).keys = s.keys := rfl
@[simp] theorem State.emitLog_run (r : LogRecord) : (s.emitLog r).run = s.run := rfl
@[simp] theorem State.emitLog_frames (r : LogRecord) : (s.emitLog r).frames = s.frames := rfl
@[simp] theorem State.emitLog_log (r : LogRecord) : (s.emitLog r).log = if s.logRxLive then s.log ++ [r] else s.log := rfl
@[simp] theorem State.emitLog_frameRxLive (r : LogRecord) : (s.emitLog r).frameRxLive = s.frameRxLive := rfl
@[simp] theorem State.emitLog_logRxLive (r : LogRecord) : (s.emitLog r).logRxLive = s.logRxLive := rfl
@[simp] theorem State.emitLog_cfg (r : LogRecord) : (s.emitLog r).cfg = s.cfg := rfl
@[simp] theorem State.emitLog_draws (r : LogRecord) : (s.emitLog r).draws = s.draws := rfl
@[simp] theorem State.emitLog_sched (r : LogRecord) : (s.emitLog r).sched = s.sched := rfl

@[simp] theorem State.emitFrame_v : (s.emitFrame).v = s.v := rfl
@[simp] theorem State.emitFrame_i : (s.emitFrame).i = s.i := rfl
@[simp] theorem State.emitFrame_pc : (s.emitFrame).pc = s.pc := rfl
@[simp] theorem State.emitFrame_sp : (s.emitFrame).sp = s.sp := rfl
@[simp] theorem State.emitFrame_stack : (s.emitFrame).stack = s.stack := rfl
@[simp] theorem State.emitFrame_dt : (s.emitFrame).dt = s.dt := rfl
@[simp] theorem State.emitFrame_st : (s.emitFrame).st = s.st := rfl
@[simp] theorem State.emitFrame_mem : (s.emitFrame).mem = s.mem := rfl
@[simp] theorem State.emitFrame_fb : (s.emitFrame).fb = s.fb := rfl
@[simp] theorem State.emitFrame_keys : (s.emitFrame).keys = s.keys := rfl
@[simp] theorem State.emitFrame_run : (s.emitFrame).run = s.run := rfl
@[simp] theorem State.emitFrame_frames : (s.emitFrame).frames = s.frames ++ [s.fb] := rfl
@[simp] theorem State.emitFrame_log : (s.emitFrame).log = s.log := rfl
@[simp] theorem State.emitFrame_frameRxLive : (s.emitFrame).frameRxLive = s.frameRxLive := rfl
@[simp] theorem State.emitFrame_logRxLive : (s.emitFrame).logRxLive = s.logRxLive := rfl
@[simp] theorem State.emitFrame_cfg : (s.emitFrame).cfg = s.cfg := rfl
@[simp] theorem State.emitFrame_draws : (s.emitFrame).draws = s.draws := rfl
@[simp] theorem State.emitFrame_sched : (s.emitFrame).sched = s.sched := rfl

@[simp] theorem State.takeDraw_v : (s.takeDraw).v = s.v := rfl
@[simp] theorem State.takeDraw_i : (s.takeDraw).i = s.i := rfl
@[simp] theorem State.takeDraw_pc : (s.takeDraw).pc = s.pc := rfl
@[simp] theorem State.takeDraw_sp : (s.takeDraw).sp = s.sp := rfl
@[simp] theorem State.takeDraw_stack : (s.takeDraw).stack = s.stack := rfl
@[simp] theorem State.takeDraw_dt : (s.takeDraw).dt = s.dt := rfl
@[simp] theorem State.takeDraw_st : (s.takeDraw).st = s.st := rfl
@[simp] theorem State.takeDraw_mem : (s.takeDraw).mem = s.mem := rfl
@[simp] theorem State.takeDraw_fb : (s.takeDraw).fb = s.fb := rfl
@[simp] theorem State.takeDraw_keys : (s.takeDraw).keys = s.keys := rfl
@[simp] theorem State.takeDraw_run : (s.takeDraw).run = s.run := rfl
@[simp] theorem State.takeDraw_frames : (s.takeDraw).frames = s.frames := rfl
@[simp] theorem State.takeDraw_log : (s.takeDraw).log = s.log := rfl
@[simp] theorem State.takeDraw_frameRxLive : (s.takeDraw).frameRxLive = s.frameRxLive := rfl
@[simp] theorem State.takeDraw_logRxLive : (s.takeDraw).logRxLive = s.logRxLive := rfl
@[simp] theorem State.takeDraw_cfg : (s.takeDraw).cfg = s.cfg := rfl
@[simp] theorem State.takeDraw_draws : (s.takeDraw).draws = s.draws + 1 := rfl
@[simp] theorem State.takeDraw_sched : (s.takeDraw).sched = s.sched := rfl

@[simp] theorem State.raiseFault_v (c : FaultCode) : (s.raiseFault c).v = s.v := rfl
@[simp] theorem State.raiseFault_i (c : FaultCode) : (s.raiseFault c).i = s.i := rfl
@[simp] theorem State.raiseFault_pc (c : FaultCode) : (s.raiseFault c).pc = s.pc := rfl
@[simp] theorem State.raiseFault_sp (c : FaultCode) : (s.raiseFault c).sp = s.sp := rfl
@[simp] theorem State.raiseFault_stack (c : FaultCode) : (s.raiseFault c).stack = s.stack := rfl
@[simp] theorem State.raiseFault_dt (c : FaultCode) : (s.raiseFault c).dt = s.dt := rfl
@[simp] theorem State.raiseFault_st (c : FaultCode) : (s.raiseFault c).st = s.st := rfl
@[simp] theorem State.raiseFault_mem (c : FaultCode) : (s.raiseFault c).mem = s.mem := rfl
@[simp] theorem State.raiseFault_fb (c : FaultCode) : (s.raiseFault c).fb = s.fb := rfl
@[simp] theorem State.raiseFault_keys (c : FaultCode) : (s.raiseFault c).keys = s.keys := rfl
@[simp] theorem State.raiseFault_run (c : FaultCode) : (s.raiseFault c).run = .faulted c := rfl
@[simp] theorem State.raiseFault_frames (c : FaultCode) : (s.raiseFault c).frames = s.frames := rfl
@[simp] theorem State.raiseFault_log (c : FaultCode) : (s.raiseFault c).log = if s.logRxLive then s.log ++ [.faultReport c s.pc] else s.log := rfl
@[simp] theorem State.raiseFault_frameRxLive (c : FaultCode) : (s.raiseFault c).frameRxLive = s.frameRxLive := rfl
@[simp] theorem State.raiseFault_logRxLive (c : FaultCode) : (s.raiseFault c).logRxLive = s.logRxLive := rfl
@[simp] theorem State.raiseFault_cfg (c : FaultCode) : (s.raiseFault c).cfg = s.cfg := rfl
@[simp] theorem State.raiseFault_draws (c : FaultCode) : (s.raiseFault c).draws = s.draws := rfl
@[simp] theorem State.raiseFault_sched (c : FaultCode) : (s.raiseFault c).sched = s.sched := rfl

@[simp] theorem State.decodeFailure_v (w : Word) : (s.decodeFailure w).v = s.v := rfl
@[simp] theorem State.decodeFailure_i (w : Word) : (s.decodeFailure w).i = s.i := rfl
@[simp] theorem State.decodeFailure_pc (w : Word) : (s.decodeFailure w).pc = s.pc + 2 := rfl
@[simp] theorem State.decodeFailure_sp (w : Word) : (s.decodeFailure w).sp = s.sp := rfl
@[simp] theorem State.decodeFailure_stack (w : Word) : (s.decodeFailure w).stack = s.stack := rfl
@[simp] theorem State.decodeFailure_dt (w : Word) : (s.decodeFailure w).dt = s.dt := rfl
@[simp] theorem State.decodeFailure_st (w : Word) : (s.decodeFailure w).st = s.st := rfl
@[simp] theorem State.decodeFailure_mem (w : Word) : (s.decodeFailure w).mem = s.mem := rfl
@[simp] theorem State.decodeFailure_fb (w : Word) : (s.decodeFailure w).fb = s.fb := rfl
@[simp] theorem State.decodeFailure_keys (w : Word) : (s.decodeFailure w).keys = s.keys := rfl
@[simp] theorem State.decodeFailure_run (w : Word) : (s.decodeFailure w).run = s.run := rfl
@[simp] theorem State.decodeFailure_frames (w : Word) : (s.decodeFailure w).frames = s.frames := rfl
@[simp] theorem State.decodeFailure_log (w : Word) : (s.decodeFailure w).log = if s.logRxLive then s.log ++ [.decodeFailure s.pc w] else s.log := rfl
@[simp] theorem State.decodeFailure_frameRxLive (w : Word) : (s.decodeFailure w).frameRxLive = s.frameRxLive := rfl
@[simp] theorem State.decodeFailure_logRxLive (w : Word) : (s.decodeFailure w).logRxLive = s.logRxLive := rfl
@[simp] theorem State.decodeFailure_cfg (w : Word) : (s.decodeFailure w).cfg = s.cfg := rfl
@[simp] theorem State.decodeFailure_draws (w : Word) : (s.decodeFailure w).draws = s.draws := rfl
@[simp] theorem State.decodeFailure_sched (w : Word) : (s.decodeFailure w).sched = s.sched := rfl

@[simp] theorem State.tick_v : (s.tick).v = s.v := rfl
@[simp] theorem State.tick_i : (s.tick).i = s.i := rfl
@[simp] theorem State.tick_pc : (s.tick).pc = s.pc := rfl
@[simp] theorem State.tick_sp : (s.tick).sp = s.sp := rfl
@[simp] theorem State.tick_stack : (s.tick).stack = s.stack := rfl
@[simp] theorem State.tick_dt : (s.tick).dt = tickTimer s.dt := rfl
@[simp] theorem State.tick_st : (s.tick).st = tickTimer s.st := rfl
@[simp] theorem State.tick_mem : (s.tick).mem = s.mem := rfl
@[simp] theorem State.tick_fb : (s.tick).fb = s.fb := rfl
@[simp] theorem State.tick_keys : (s.tick).keys = s.keys := rfl
@[simp] theorem State.tick_run : (s.tick).run = s.run := rfl
@[simp] theorem State.tick_frames : (s.tick).frames = s.frames := rfl
@[simp] theorem State.tick_log : (s.tick).log = s.log := rfl
@[simp] theorem State.tick_frameRxLive : (s.tick).frameRxLive = s.frameRxLive := rfl
@[simp] theorem State.tick_logRxLive : (s.tick).logRxLive = s.logRxLive := rfl
@[simp] theorem State.tick_cfg : (s.tick).cfg = s.cfg := rfl
@[simp] theorem State.tick_draws : (s.tick).draws = s.draws := rfl
@[simp] theorem State.tick_sched : (s.tick).sched = s.sched := rfl

@[simp] theorem State.loseFrameRx_v : (s.loseFrameRx).v = s.v := rfl
@[simp] theorem State.loseFrameRx_i : (s.loseFrameRx).i = s.i := rfl
@[simp] theorem State.loseFrameRx_pc : (s.loseFrameRx).pc = s.pc := rfl
@[simp] theorem State.loseFrameRx_sp : (s.loseFrameRx).sp = s.sp := rfl
@[simp] theorem State.loseFrameRx_stack : (s.loseFrameRx).stack = s.stack := rfl
@[simp] theorem State.loseFrameRx_dt : (s.loseFrameRx).dt = s.dt := rfl
@[simp] theorem State.loseFrameRx_st : (s.loseFrameRx).st = s.st := rfl
@[simp] theorem State.loseFrameRx_mem : (s.loseFrameRx).mem = s.mem := rfl
@[simp] theorem State.loseFrameRx_fb : (s.loseFrameRx).fb = s.fb := rfl
@[simp] theorem State.loseFrameRx_keys : (s.loseFrameRx).keys = s.keys := rfl
@[simp] theorem State.loseFrameRx_run : (s.loseFrameRx).run = s.run := rfl
@[simp] theorem State.loseFrameRx_frames : (s.loseFrameRx).frames = s.frames := rfl
@[simp] theorem State.loseFrameRx_log : (s.loseFrameRx).log = s.log := rfl
@[simp] theorem State.loseFrameRx_frameRxLive : (s.loseFrameRx).frameRxLive = false := rfl
@[simp] theorem State.loseFrameRx_logRxLive : (s.loseFrameRx).logRxLive = s.logRxLive := rfl
@[simp] theorem State.loseFrameRx_cfg : (s.loseFrameRx).cfg = s.cfg := rfl
@[simp] theorem State.loseFrameRx_draws : (s.loseFrameRx).draws = s.draws := rfl
@[simp] theorem State.loseFrameRx_sched : (s.loseFrameRx).sched = s.sched := rfl

@[simp] theorem State.loseLogRx_v : (s.loseLogRx).v = s.v := rfl
@[simp] theorem State.loseLogRx_i : (s.loseLogRx).i = s.i := rfl
@[simp] theorem State.loseLogRx_pc : (s.loseLogRx).pc = s.pc := rfl
@[simp] theorem State.loseLogRx_sp : (s.loseLogRx).sp = s.sp := rfl
@[simp] theorem State.loseLogRx_stack : (s.loseLogRx).stack = s.stack := rfl
@[simp] theorem State.loseLogRx_dt : (s.loseLogRx).dt = s.dt := rfl
@[simp] theorem State.loseLogRx_st : (s.loseLogRx).st = s.st := rfl
@[simp] theorem State.loseLogRx_mem : (s.loseLogRx).mem = s.mem := rfl
@[simp] theorem State.loseLogRx_fb : (s.loseLogRx).fb = s.fb := rfl
@[simp] theorem State.loseLogRx_keys : (s.loseLogRx).keys = s.keys := rfl
@[simp] theorem State.loseLogRx_run : (s.loseLogRx).run = s.run := rfl
@[simp] theorem State.loseLogRx_frames : (s.loseLogRx).frames = s.frames := rfl
@[simp] theorem State.loseLogRx_log : (s.loseLogRx).log = s.log := rfl
@[simp] theorem State.loseLogRx_frameRxLive : (s.loseLogRx).frameRxLive = s.frameRxLive := rfl
@[simp] theorem State.loseLogRx_logRxLive : (s.loseLogRx).logRxLive = false := rfl
@[simp] theorem State.loseLogRx_cfg : (s.loseLogRx).cfg = s.cfg := rfl
@[simp] theorem State.loseLogRx_draws : (s.loseLogRx).draws = s.draws := rfl
@[simp] theorem State.loseLogRx_sched : (s.loseLogRx).sched = s.sched := rfl

@[simp] theorem State.resolveWait_v (x : Reg) (k : Key) : (s.resolveWait x k).v = s.v.set x.val (BitVec.ofNat 8 k.val) := rfl
@[simp] theorem State.resolveWait_i (x : Reg) (k : Key) : (s.resolveWait x k).i = s.i := rfl
@[simp] theorem State.resolveWait_pc (x : Reg) (k : Key) : (s.resolveWait x k).pc = s.pc + 2 := rfl
@[simp] theorem State.resolveWait_sp (x : Reg) (k : Key) : (s.resolveWait x k).sp = s.sp := rfl
@[simp] theorem State.resolveWait_stack (x : Reg) (k : Key) : (s.resolveWait x k).stack = s.stack := rfl
@[simp] theorem State.resolveWait_dt (x : Reg) (k : Key) : (s.resolveWait x k).dt = s.dt := rfl
@[simp] theorem State.resolveWait_st (x : Reg) (k : Key) : (s.resolveWait x k).st = s.st := rfl
@[simp] theorem State.resolveWait_mem (x : Reg) (k : Key) : (s.resolveWait x k).mem = s.mem := rfl
@[simp] theorem State.resolveWait_fb (x : Reg) (k : Key) : (s.resolveWait x k).fb = s.fb := rfl
@[simp] theorem State.resolveWait_keys (x : Reg) (k : Key) : (s.resolveWait x k).keys = s.keys := rfl
@[simp] theorem State.resolveWait_run (x : Reg) (k : Key) : (s.resolveWait x k).run = .running := rfl
@[simp] theorem State.resolveWait_frames (x : Reg) (k : Key) : (s.resolveWait x k).frames = s.frames := rfl
@[simp] theorem State.resolveWait_log (x : Reg) (k : Key) : (s.resolveWait x k).log = s.log := rfl
@[simp] theorem State.resolveWait_frameRxLive (x : Reg) (k : Key) : (s.resolveWait x k).frameRxLive = s.frameRxLive := rfl
@[simp] theorem State.resolveWait_logRxLive (x : Reg) (k : Key) : (s.resolveWait x k).logRxLive = s.logRxLive := rfl
@[simp] theorem State.resolveWait_cfg (x : Reg) (k : Key) : (s.resolveWait x k).cfg = s.cfg := rfl
@[simp] theorem State.resolveWait_draws (x : Reg) (k : Key) : (s.resolveWait x k).draws = s.draws := rfl
@[simp] theorem State.resolveWait_sched (x : Reg) (k : Key) : (s.resolveWait x k).sched = s.sched := rfl

/-! ### Reads after updates -/

@[simp] theorem State.reg_setReg_same (x : Reg) (b : Byte) : (s.setReg x b).reg x = b := by
  simp [State.reg]

theorem State.reg_setReg_ne {x z : Reg} (b : Byte) (h : z ≠ x) : (s.setReg x b).reg z = s.reg z := by
  have : x.val ≠ z.val := fun e => h (Fin.ext e.symm)
  simp [State.reg, Vector.getElem_set_ne, this]

theorem State.reg_setReg (x z : Reg) (b : Byte) : (s.setReg x b).reg z = if z = x then b else s.reg z := by
  by_cases h : z = x
  · subst h; simp
  · simp [h, State.reg_setReg_ne]

/-- A register is read from `v` alone. -/
theorem State.reg_congr {s t : State} (h : t.v = s.v) (x : Reg) : t.reg x = s.reg x := by
  simp [State.reg, h]

/-- A byte of memory is read from `mem` and the glyph ROM alone. -/
theorem State.readByte_congr {s t : State} (hm : t.mem = s.mem) (hc : t.cfg = s.cfg) (a : Nat) :
    t.readByte a = s.readByte a := by
  simp [State.readByte, hm, hc]

/-- The fetch reads PC, `mem` and the glyph ROM alone. -/
theorem State.fetch_congr {s t : State} (hp : t.pc = s.pc) (hm : t.mem = s.mem) (hc : t.cfg = s.cfg) :
    t.fetch = s.fetch := by
  simp [State.fetch, State.readByte, hp, hm, hc]

end Sys2Proof.Machine
end

