-- ==== Sys2Proof/Laws/Ops.lean ====
section
/-! SUPPORT. One lemma per shared operation that says what it does, in numbers: flags, operands, stores, the draw, the fetch, the
events. The provers cite these and do not unfold the operations. -/

namespace Sys2Proof.Machine

/-! ### Flags and operands -/

theorem flagByte_toNat (c : Bool) : (flagByte c).toNat = if c = true then 1 else 0 := by cases c <;> rfl

theorem carryFlag_toNat (a b : Byte) : (carryFlag a b).toNat = if a.toNat + b.toNat > 255 then 1 else 0 := by
  simp [carryFlag, flagByte_toNat]

theorem greaterFlag_toNat (a b : Byte) : (greaterFlag a b).toNat = if a.toNat > b.toNat then 1 else 0 := by
  simp [greaterFlag, flagByte_toNat]

theorem lowBitFlag_toNat (a : Byte) : (lowBitFlag a).toNat = a.toNat % 2 := by
  have h : (lowBitFlag a).toNat = a.toNat &&& 1 := rfl
  rw [h, Nat.and_one_is_mod]

theorem highBitFlag_toNat (a : Byte) : (highBitFlag a).toNat = a.toNat / 128 := by
  have h : (highBitFlag a).toNat = (a.toNat >>> 7) &&& 1 := rfl
  rw [h, Nat.and_one_is_mod, Nat.shiftRight_eq_div_pow]
  have := a.isLt
  omega

theorem zext16_toNat (b : Byte) : (zext16 b).toNat = b.toNat := by
  have := b.isLt
  simp only [zext16, BitVec.toNat_setWidth]
  omega

theorem addrWord_toNat (nnn : Addr12) : (addrWord nnn).toNat = nnn.toNat := by
  have := nnn.isLt
  simp only [addrWord, BitVec.toNat_setWidth]
  omega

theorem glyphAddress_toNat (b : Byte) : (glyphAddress b).toNat = b.toNat % 16 * 5 := by
  have h : (b &&& 0x0F).toNat = b.toNat % 16 := by
    have h1 : (b &&& 0x0F).toNat = b.toNat &&& (2 ^ 4 - 1) := rfl
    rw [h1, Nat.and_two_pow_sub_one_eq_mod]
  have h2 : (glyphAddress b).toNat = (zext16 (b &&& 0x0F)).toNat * 5 % 65536 := BitVec.toNat_mul ..
  rw [h2, zext16_toNat, h]
  omega

/-- The operand of the shifts, by SHIFT_SOURCE; either value gives V[x] when x = y (42_alu.md R151). -/
theorem shiftOperand_eq {s : State} {x y : Reg} {b : Byte} (hx : s.cfg.shiftSource = .vx → b = s.reg x)
    (hy : s.cfg.shiftSource = .vy → b = s.reg y) : s.shiftOperand x y = b := by
  unfold State.shiftOperand
  cases h : s.cfg.shiftSource
  · simp [hx h]
  · by_cases e : x = y
    · subst e; simp [hy h]
    · simp [e, hy h]

/-! ### Memory -/

theorem readByte_storeBytes_outside (s : State) (a a' : Nat) (bs : List Byte) (h : a' < a ∨ a + bs.length ≤ a') :
    (s.storeBytes a bs).readByte a' = s.readByte a' :=
  Memory.read_writeBytes_outside bs s.mem a a' h

theorem readByte_storeBytes_inside (s : State) (a k : Nat) (bs : List Byte) (h : k < bs.length) :
    (s.storeBytes a bs).readByte (a + k) = bs[k] :=
  Memory.read_writeBytes_inside bs s.mem a k h

theorem bcdDigits_length (b : Byte) : (bcdDigits b).length = 3 := rfl

theorem regs_length (s : State) : s.v.toList.length = 16 := by simp

/-- The checks of a store, as conditions on I. -/
theorem storeFault_eq (s : State) (len : Nat) : s.storeFault len =
    if s.i.toNat + len > 4096 then some .memWriteOutOfRange
    else if s.i.toNat < 0x50 then some .glyphRegionWrite else none := by
  by_cases h : s.i.toNat + len > 4096
  · simp [State.storeFault, outOfRange, State.storeAddr, h]
  · by_cases g : s.i.toNat < 0x50 <;> simp [State.storeFault, outOfRange, State.storeAddr, h, g]

/-! ### The draw -/

/-- The checks of a draw, as conditions on I and the operands. -/
theorem drawFault_eq (s : State) (x y : Reg) (n : Nibble) : s.drawFault x y n =
    if s.i.toNat + n.toNat > 4096 then some .memReadOutOfRange
    else if n.toNat > 0 ∧ (s.reg y).toNat + n.toNat > 32 then some .drawRowOutOfRange
    else if n.toNat > 0 ∧ (s.reg x).toNat > 63 then some .drawColumnOutOfRange
    else none := by
  unfold State.drawFault
  have e : (n.toNat > 0 ∧ (s.reg y).toNat + n.toNat - 1 > 31) ↔ (n.toNat > 0 ∧ (s.reg y).toNat + n.toNat > 32) := by
    omega
  simp [outOfRange, e]

@[simp] theorem loadBytes_length (s : State) (a n : Nat) : (s.loadBytes a n).length = n :=
  Memory.readBytes_length s.mem a n

theorem loadBytes_getElem (s : State) (a n k : Nat) (h : k < (s.loadBytes a n).length) :
    (s.loadBytes a n)[k] = s.readByte (a + k) :=
  Memory.readBytes_getElem s.mem a n k h

/-- The pixel of the bytes at I, in terms of the bytes of memory (44_draw.md R181, R182). -/
theorem bytesPixel_loadBytes (s : State) (cx : Byte) (a n r0 r c : Nat) :
    bytesPixel cx (s.loadBytes a n) r0 r c =
      (decide (r0 ≤ r ∧ r < r0 + n ∧ cx.toNat ≤ c ∧ c < cx.toNat + 8) &&
        (s.readByte (a + (r - r0))).getLsbD (7 - (c - cx.toNat))) := by
  unfold bytesPixel
  by_cases h1 : r0 ≤ r
  · by_cases h2 : r < r0 + n
    · have hl : r - r0 < (s.loadBytes a n).length := by simp; omega
      rw [List.getElem?_eq_getElem hl, loadBytes_getElem]
      simp [h1, h2]
    · have hl : (s.loadBytes a n).length ≤ r - r0 := by simp; omega
      rw [List.getElem?_eq_none hl]
      simp [h2]
  · simp [h1]

/-! ### The schedule -/

theorem nextEvent_nil {s : State} (h : s.sched = []) : s.nextEvent = (.core, s) := by
  simp [State.nextEvent, h]

theorem nextEvent_cons {s : State} {e : Event} {rest : List Event} (h : s.sched = e :: rest) :
    s.nextEvent = (e, { s with sched := rest }) := by
  simp [State.nextEvent, h]

/-- The state after the schedule has moved differs from the state only in its schedule. -/
theorem nextEvent_state (s : State) : ∃ rest, s.nextEvent.2 = { s with sched := rest } := by
  unfold State.nextEvent
  split
  · rename_i h; exact ⟨[], by rw [← h]⟩
  · exact ⟨_, rfl⟩

/-! ### The fetch -/

theorem fetch_none {s : State} (h : s.pc.toNat + 1 ≥ 4096) : s.fetch = none := by
  unfold State.fetch
  rw [if_pos (by omega)]

theorem fetch_some {s : State} (h : s.pc.toNat + 1 < 4096) :
    s.fetch = some (wordOfBytes (s.readByte s.pc.toNat) (s.readByte (s.pc.toNat + 1))) := by
  unfold State.fetch
  rw [if_neg (by omega)]

/-- A word was fetched only from a PC of at most 0xFFE (20_memory.md R60). -/
theorem pc_le_of_fetch {s : State} {w : Word} (h : s.fetch = some w) : s.pc.toNat ≤ 0xFFE := by
  unfold State.fetch at h
  split at h
  · cases h
  · omega

/-! ### Events -/

theorem tickTimer_toNat (b : Byte) : (tickTimer b).toNat = b.toNat - 1 := by
  unfold tickTimer
  have hb := b.isLt
  split
  · have e : (b - 1).toNat = (256 - 1 + b.toNat) % 256 := BitVec.toNat_sub b 1
    rw [e]
    omega
  · omega

end Sys2Proof.Machine
end

