-- ==== Sys2Proof/Laws/Exec.lean ====
section
/-! SUPPORT. What one instruction can do, said once: `Effect s i t` lists the shapes of the state t after i, and every answer of
`exec` has one of them. Whole-machine statements go through it, by cases on the shape, and not through 35 unfoldings. -/

namespace Sys2Proof.Machine

/-- The state of a draw before its frame is sent (44_draw.md R180): FB and VF are written. -/
def State.drawn (s : State) (x y : Reg) (n : Nibble) : State :=
  (s.setFb (s.drawSprite x y n).1).setReg vf (flagByte (s.drawSprite x y n).2)

/-- The instructions whose only writes are general registers and the fallthrough. -/
def WritesOnlyRegs : Instr → Prop
  | .ldImm .. | .addImm .. | .ldReg .. | .orReg .. | .andReg .. | .xorReg .. | .addReg .. | .subReg .. | .shr ..
  | .subn .. | .shl .. | .ldVxDT .. | .ldRegs .. => True
  | _ => False

/-- The instructions whose only write is PC. -/
def WritesOnlyPc : Instr → Prop
  | .jp .. | .jpV0 .. | .seImm .. | .sneImm .. | .seReg .. | .sneReg .. | .skp .. | .sknp .. => True
  | _ => False

/-- What an instruction that only writes PC can leave in it: a skip, a fallthrough, or a target of at most 0x10FE (10_state.md
R24, R25). -/
def PcTarget (s : State) (w : Word) : Prop := w = s.pc + 2 ∨ w = s.pc + 4 ∨ w.toNat ≤ 0x10FE

/-- The shapes of the state after an instruction. -/
inductive Effect (s : State) : Instr → State → Prop where
  | raises (i : Instr) (c : FaultCode) (hc : c ≠ .frameChannelClosed) (hf : c ≠ .fetchOutOfRange) :
      Effect s i (s.raiseFault c)
  | halts : Effect s .halt ((s.emitLog (.haltNotice s.pc)).setRun .halted)
  | clears : Effect s .cls (s.setFb (Vector.replicate 32 0)).advance
  | returns (h : s.sp.val ≠ 0) : Effect s .ret (s.pop.setPc (s.top + 2))
  | calls (nnn : Addr12) (h : s.sp.val < 16) : Effect s (.call nnn) ((s.push s.pc h).setPc (addrWord nnn))
  | goes (i : Instr) (w : Word) (hi : WritesOnlyPc i) (hw : PcTarget s w) : Effect s i (s.setPc w)
  | regs (i : Instr) (v : Vector Byte 16) (hi : WritesOnlyRegs i) : Effect s i (s.setAllRegs v).advance
  | random (x : Reg) (nn : Byte) : Effect s (.rnd x nn) (s.takeDraw.setReg x (s.nextDraw &&& nn)).advance
  | index (i : Instr) (w : Word) (hi : (∃ nnn, i = .ldI nnn) ∨ (∃ x, i = .addI x) ∨ ∃ x, i = .ldF x) :
      Effect s i (s.setI w).advance
  | delay (x : Reg) : Effect s (.ldDTVx x) (s.setDt (s.reg x)).advance
  | sound (x : Reg) : Effect s (.ldSTVx x) (s.setSt (s.reg x)).advance
  | waits (x : Reg) : Effect s (.ldVxK x) (s.setRun (.waiting x))
  | stores (i : Instr) (bs : List Byte)
      (hi : (∃ x, i = .ldB x ∧ bs.length = 3) ∨ ∃ x, i = .stRegs x ∧ bs.length = 16)
      (lo : 0x50 ≤ s.i.toNat) (up : s.i.toNat + bs.length ≤ 4096) : Effect s i (s.storeBytes s.storeAddr bs).advance
  | draws (x y : Reg) (n : Nibble) : Effect s (.drw x y n) (s.drawn x y n).sendFrame

/-! ### One equation per instruction that can fault -/

theorem execLdB_eq (x : Reg) (s : State) : execLdB x s =
    if s.i.toNat + 3 > 4096 then .next (s.raiseFault .memWriteOutOfRange)
    else if s.i.toNat < 0x50 then .next (s.raiseFault .glyphRegionWrite)
    else .next (s.storeBytes s.storeAddr (bcdDigits (s.reg x))).advance := by
  unfold execLdB
  rw [storeFault_eq]
  by_cases h1 : s.i.toNat + 3 > 4096
  · simp only [if_pos h1]
  · by_cases h2 : s.i.toNat < 0x50
    · simp only [if_neg h1, if_pos h2]
    · simp only [if_neg h1, if_neg h2]

theorem execStRegs_eq (x : Reg) (s : State) : execStRegs x s =
    if s.i.toNat + 16 > 4096 then .next (s.raiseFault .memWriteOutOfRange)
    else if s.i.toNat < 0x50 then .next (s.raiseFault .glyphRegionWrite)
    else .next (s.storeBytes s.storeAddr s.v.toList).advance := by
  unfold execStRegs
  rw [storeFault_eq]
  by_cases h1 : s.i.toNat + 16 > 4096
  · simp only [if_pos h1]
  · by_cases h2 : s.i.toNat < 0x50
    · simp only [if_neg h1, if_pos h2]
    · simp only [if_neg h1, if_neg h2]

theorem execDrw_eq (x y : Reg) (n : Nibble) (s : State) : execDrw x y n s =
    if s.i.toNat + n.toNat > 4096 then .next (s.raiseFault .memReadOutOfRange)
    else if n.toNat > 0 ∧ (s.reg y).toNat + n.toNat > 32 then .next (s.raiseFault .drawRowOutOfRange)
    else if n.toNat > 0 ∧ (s.reg x).toNat > 63 then .next (s.raiseFault .drawColumnOutOfRange)
    else .next (s.drawn x y n).sendFrame := by
  unfold execDrw
  rw [drawFault_eq]
  by_cases h1 : s.i.toNat + n.toNat > 4096
  · simp only [if_pos h1]
  · by_cases h2 : n.toNat > 0 ∧ (s.reg y).toNat + n.toNat > 32
    · simp only [if_neg h1, if_pos h2]
    · by_cases h3 : n.toNat > 0 ∧ (s.reg x).toNat > 63
      · simp only [if_neg h1, if_neg h2, if_pos h3]
      · simp only [if_neg h1, if_neg h2, if_neg h3]; rfl

/-- The frame send, by the receiver's liveness and ON_FRAME_SEND_FAIL (44_draw.md R184). -/
theorem sendFrame_cases (s : State) :
    (s.frameRxLive = true ∧ s.sendFrame = s.emitFrame.advance) ∨
    (s.frameRxLive = false ∧ s.cfg.onFrameSendFail = .fault ∧ s.sendFrame = s.raiseFault .frameChannelClosed) ∨
    (s.frameRxLive = false ∧ s.cfg.onFrameSendFail = .logAndContinue ∧
      s.sendFrame = (s.emitLog (.frameSendFailed s.pc)).advance) := by
  unfold State.sendFrame
  cases h : s.frameRxLive
  · cases g : s.cfg.onFrameSendFail <;> simp
  · simp

/-! ### Every answer of exec has one of the shapes -/

theorem jpV0_target (nnn : Addr12) (s : State) :
    (addrWord nnn + zext16 (s.reg 0)).toNat = nnn.toNat + (s.reg 0).toNat := by
  have h1 := nnn.isLt
  have h2 := (s.reg 0).isLt
  rw [BitVec.toNat_add, addrWord_toNat, zext16_toNat]
  omega

theorem skip_target (s : State) (c : Bool) : PcTarget s (if c then s.pc + 4 else s.pc + 2) := by
  cases c
  · exact .inl rfl
  · exact .inr (.inl rfl)

theorem exec_effect {i : Instr} {s t : State} (h : exec i s = .next t) : Effect s i t := by
  cases i with
  | halt => cases h; exact .halts
  | cls => cases h; exact .clears
  | ret =>
    simp only [exec, execRet] at h
    split at h <;> cases h
    · exact .raises _ _ (by simp) (by simp)
    · rename_i hs; exact .returns hs
  | jp nnn => cases h; exact .goes _ _ trivial (.inr (.inr (by rw [addrWord_toNat]; have := nnn.isLt; omega)))
  | call nnn =>
    simp only [exec, execCall] at h
    split at h <;> cases h
    · rename_i hs; exact .calls nnn hs
    · exact .raises _ _ (by simp) (by simp)
  | seImm x nn => cases h; exact .goes _ _ trivial (skip_target _ _)
  | sneImm x nn => cases h; exact .goes _ _ trivial (skip_target _ _)
  | seReg x y => cases h; exact .goes _ _ trivial (skip_target _ _)
  | ldImm x nn => cases h; exact .regs _ _ trivial
  | addImm x nn => cases h; exact .regs _ _ trivial
  | ldReg x y => cases h; exact .regs _ _ trivial
  | orReg x y => cases h; exact .regs _ _ trivial
  | andReg x y => cases h; exact .regs _ _ trivial
  | xorReg x y => cases h; exact .regs _ _ trivial
  | addReg x y => cases h; exact .regs _ _ trivial
  | subReg x y => cases h; exact .regs _ _ trivial
  | shr x y => cases h; exact .regs _ _ trivial
  | subn x y => cases h; exact .regs _ _ trivial
  | shl x y => cases h; exact .regs _ _ trivial
  | sneReg x y => cases h; exact .goes _ _ trivial (skip_target _ _)
  | ldI nnn => cases h; exact .index _ _ (.inl ⟨_, rfl⟩)
  | jpV0 nnn =>
    cases h
    refine .goes _ _ trivial (.inr (.inr ?_))
    rw [jpV0_target]
    have := nnn.isLt; have := (s.reg 0).isLt; omega
  | rnd x nn => cases h; exact .random x nn
  | drw x y n =>
    simp only [exec, execDrw_eq] at h
    repeat' split at h
    all_goals cases h
    · exact .raises _ _ (by simp) (by simp)
    · exact .raises _ _ (by simp) (by simp)
    · exact .raises _ _ (by simp) (by simp)
    · exact .draws x y n
  | skp x =>
    simp only [exec, execSkp] at h
    split at h <;> cases h
    · exact .raises _ _ (by simp) (by simp)
    · exact .goes _ _ trivial (skip_target _ _)
  | sknp x =>
    simp only [exec, execSknp] at h
    split at h <;> cases h
    · exact .raises _ _ (by simp) (by simp)
    · exact .goes _ _ trivial (skip_target _ _)
  | ldVxDT x => cases h; exact .regs _ _ trivial
  | ldVxK x => cases h; exact .waits x
  | ldDTVx x => cases h; exact .delay x
  | ldSTVx x => cases h; exact .sound x
  | addI x => cases h; exact .index _ _ (.inr (.inl ⟨x, rfl⟩))
  | ldF x => cases h; exact .index _ _ (.inr (.inr ⟨x, rfl⟩))
  | ldB x =>
    simp only [exec, execLdB_eq] at h
    repeat' split at h
    all_goals cases h
    · exact .raises _ _ (by simp) (by simp)
    · exact .raises _ _ (by simp) (by simp)
    · exact .stores _ _ (.inl ⟨x, rfl, rfl⟩) (by omega) (by rw [bcdDigits_length]; omega)
  | stRegs x =>
    simp only [exec, execStRegs_eq] at h
    repeat' split at h
    all_goals cases h
    · exact .raises _ _ (by simp) (by simp)
    · exact .raises _ _ (by simp) (by simp)
    · exact .stores _ _ (.inr ⟨x, rfl, regs_length s⟩) (by omega) (by rw [regs_length]; omega)
  | ldRegs x =>
    simp only [exec, execLdRegs] at h
    split at h <;> cases h
    · exact .raises _ _ (by simp) (by simp)
    · exact .regs _ _ trivial

end Sys2Proof.Machine
end

