-- ==== Sys2Proof/Laws/PerInstr.lean ====
section
/-! SUPPORT. Statements for all instructions, one lemma per constructor. -/

namespace Sys2Proof.Laws

/-! ### RowMatch: the word of an instruction lies in its row of the opcode map (30_encoding.md R86) -/

/-- The row of the opcode map an instruction stands for, with ZERO_FAMILY_KEY = addr12. -/
def RowMatch.row : Instr → OpcodeRow
  | .halt      => ⟨0x0000, 0xFFFF⟩
  | .cls       => ⟨0x00E0, 0xFFFF⟩
  | .ret       => ⟨0x00EE, 0xFFFF⟩
  | .jp ..     => ⟨0x1000, 0xF000⟩
  | .call ..   => ⟨0x2000, 0xF000⟩
  | .seImm ..  => ⟨0x3000, 0xF000⟩
  | .sneImm .. => ⟨0x4000, 0xF000⟩
  | .seReg ..  => ⟨0x5000, 0xF00F⟩
  | .ldImm ..  => ⟨0x6000, 0xF000⟩
  | .addImm .. => ⟨0x7000, 0xF000⟩
  | .ldReg ..  => ⟨0x8000, 0xF00F⟩
  | .orReg ..  => ⟨0x8001, 0xF00F⟩
  | .andReg .. => ⟨0x8002, 0xF00F⟩
  | .xorReg .. => ⟨0x8003, 0xF00F⟩
  | .addReg .. => ⟨0x8004, 0xF00F⟩
  | .subReg .. => ⟨0x8005, 0xF00F⟩
  | .shr ..    => ⟨0x8006, 0xF00F⟩
  | .subn ..   => ⟨0x8007, 0xF00F⟩
  | .shl ..    => ⟨0x800E, 0xF00F⟩
  | .sneReg .. => ⟨0x9000, 0xF00F⟩
  | .ldI ..    => ⟨0xA000, 0xF000⟩
  | .jpV0 ..   => ⟨0xB000, 0xF000⟩
  | .rnd ..    => ⟨0xC000, 0xF000⟩
  | .drw ..    => ⟨0xD000, 0xF000⟩
  | .skp ..    => ⟨0xE09E, 0xF0FF⟩
  | .sknp ..   => ⟨0xE0A1, 0xF0FF⟩
  | .ldVxDT .. => ⟨0xF007, 0xF0FF⟩
  | .ldVxK ..  => ⟨0xF00A, 0xF0FF⟩
  | .ldDTVx .. => ⟨0xF015, 0xF0FF⟩
  | .ldSTVx .. => ⟨0xF018, 0xF0FF⟩
  | .addI ..   => ⟨0xF01E, 0xF0FF⟩
  | .ldF ..    => ⟨0xF029, 0xF0FF⟩
  | .ldB ..    => ⟨0xF033, 0xF0FF⟩
  | .stRegs .. => ⟨0xF055, 0xF0FF⟩
  | .ldRegs .. => ⟨0xF065, 0xF0FF⟩

/-- The instruction's row selects its word. -/
def RowMatch.Statement (i : Instr) : Prop := (RowMatch.row i).matchesWord (encode i) = true

/-- A row whose mask is the mode. -/
theorem RowMatch.of_mode {w : Word} {m : Nibble} (h : fieldMode w = m) :
    OpcodeRow.matchesWord ⟨wordAddr m 0, 0xF000⟩ w = true := by
  simp only [OpcodeRow.matchesWord, and_F000, h, beq_self_eq_true]

/-- A row whose mask is mode and z. -/
theorem RowMatch.of_mode_z {w : Word} {m z : Nibble} (h : fieldMode w = m) (hz : fieldZ w = z) :
    OpcodeRow.matchesWord ⟨wordReg m 0 0 z, 0xF00F⟩ w = true := by
  simp only [OpcodeRow.matchesWord, and_F00F, h, hz, beq_self_eq_true]

/-- A row whose mask is mode and num. -/
theorem RowMatch.of_mode_num {w : Word} {m : Nibble} {nn : Byte} (h : fieldMode w = m) (hn : fieldNum w = nn) :
    OpcodeRow.matchesWord ⟨wordImm m 0 nn, 0xF0FF⟩ w = true := by
  simp only [OpcodeRow.matchesWord, and_F0FF, h, hn, beq_self_eq_true]

theorem RowMatch.halt : RowMatch.Statement .halt := rfl
theorem RowMatch.cls : RowMatch.Statement .cls := rfl
theorem RowMatch.ret : RowMatch.Statement .ret := rfl
theorem RowMatch.jp (nnn : Addr12) : RowMatch.Statement (.jp nnn) :=
  RowMatch.of_mode (m := 0x1) (by simp [encode])
theorem RowMatch.call (nnn : Addr12) : RowMatch.Statement (.call nnn) :=
  RowMatch.of_mode (m := 0x2) (by simp [encode])
theorem RowMatch.seImm (x : Reg) (nn : Byte) : RowMatch.Statement (.seImm x nn) :=
  RowMatch.of_mode (m := 0x3) (by simp [encode])
theorem RowMatch.sneImm (x : Reg) (nn : Byte) : RowMatch.Statement (.sneImm x nn) :=
  RowMatch.of_mode (m := 0x4) (by simp [encode])
theorem RowMatch.seReg (x y : Reg) : RowMatch.Statement (.seReg x y) :=
  RowMatch.of_mode_z (m := 0x5) (z := 0x0) (by simp [encode]) (by simp [encode])
theorem RowMatch.ldImm (x : Reg) (nn : Byte) : RowMatch.Statement (.ldImm x nn) :=
  RowMatch.of_mode (m := 0x6) (by simp [encode])
theorem RowMatch.addImm (x : Reg) (nn : Byte) : RowMatch.Statement (.addImm x nn) :=
  RowMatch.of_mode (m := 0x7) (by simp [encode])
theorem RowMatch.ldReg (x y : Reg) : RowMatch.Statement (.ldReg x y) :=
  RowMatch.of_mode_z (m := 0x8) (z := 0x0) (by simp [encode]) (by simp [encode])
theorem RowMatch.orReg (x y : Reg) : RowMatch.Statement (.orReg x y) :=
  RowMatch.of_mode_z (m := 0x8) (z := 0x1) (by simp [encode]) (by simp [encode])
theorem RowMatch.andReg (x y : Reg) : RowMatch.Statement (.andReg x y) :=
  RowMatch.of_mode_z (m := 0x8) (z := 0x2) (by simp [encode]) (by simp [encode])
theorem RowMatch.xorReg (x y : Reg) : RowMatch.Statement (.xorReg x y) :=
  RowMatch.of_mode_z (m := 0x8) (z := 0x3) (by simp [encode]) (by simp [encode])
theorem RowMatch.addReg (x y : Reg) : RowMatch.Statement (.addReg x y) :=
  RowMatch.of_mode_z (m := 0x8) (z := 0x4) (by simp [encode]) (by simp [encode])
theorem RowMatch.subReg (x y : Reg) : RowMatch.Statement (.subReg x y) :=
  RowMatch.of_mode_z (m := 0x8) (z := 0x5) (by simp [encode]) (by simp [encode])
theorem RowMatch.shr (x y : Reg) : RowMatch.Statement (.shr x y) :=
  RowMatch.of_mode_z (m := 0x8) (z := 0x6) (by simp [encode]) (by simp [encode])
theorem RowMatch.subn (x y : Reg) : RowMatch.Statement (.subn x y) :=
  RowMatch.of_mode_z (m := 0x8) (z := 0x7) (by simp [encode]) (by simp [encode])
theorem RowMatch.shl (x y : Reg) : RowMatch.Statement (.shl x y) :=
  RowMatch.of_mode_z (m := 0x8) (z := 0xE) (by simp [encode]) (by simp [encode])
theorem RowMatch.sneReg (x y : Reg) : RowMatch.Statement (.sneReg x y) :=
  RowMatch.of_mode_z (m := 0x9) (z := 0x0) (by simp [encode]) (by simp [encode])
theorem RowMatch.ldI (nnn : Addr12) : RowMatch.Statement (.ldI nnn) :=
  RowMatch.of_mode (m := 0xA) (by simp [encode])
theorem RowMatch.jpV0 (nnn : Addr12) : RowMatch.Statement (.jpV0 nnn) :=
  RowMatch.of_mode (m := 0xB) (by simp [encode])
theorem RowMatch.rnd (x : Reg) (nn : Byte) : RowMatch.Statement (.rnd x nn) :=
  RowMatch.of_mode (m := 0xC) (by simp [encode])
theorem RowMatch.drw (x y : Reg) (n : Nibble) : RowMatch.Statement (.drw x y n) :=
  RowMatch.of_mode (m := 0xD) (by simp [encode])
theorem RowMatch.skp (x : Reg) : RowMatch.Statement (.skp x) :=
  RowMatch.of_mode_num (m := 0xE) (nn := 0x9E) (by simp [encode]) (by simp [encode])
theorem RowMatch.sknp (x : Reg) : RowMatch.Statement (.sknp x) :=
  RowMatch.of_mode_num (m := 0xE) (nn := 0xA1) (by simp [encode]) (by simp [encode])
theorem RowMatch.ldVxDT (x : Reg) : RowMatch.Statement (.ldVxDT x) :=
  RowMatch.of_mode_num (m := 0xF) (nn := 0x07) (by simp [encode]) (by simp [encode])
theorem RowMatch.ldVxK (x : Reg) : RowMatch.Statement (.ldVxK x) :=
  RowMatch.of_mode_num (m := 0xF) (nn := 0x0A) (by simp [encode]) (by simp [encode])
theorem RowMatch.ldDTVx (x : Reg) : RowMatch.Statement (.ldDTVx x) :=
  RowMatch.of_mode_num (m := 0xF) (nn := 0x15) (by simp [encode]) (by simp [encode])
theorem RowMatch.ldSTVx (x : Reg) : RowMatch.Statement (.ldSTVx x) :=
  RowMatch.of_mode_num (m := 0xF) (nn := 0x18) (by simp [encode]) (by simp [encode])
theorem RowMatch.addI (x : Reg) : RowMatch.Statement (.addI x) :=
  RowMatch.of_mode_num (m := 0xF) (nn := 0x1E) (by simp [encode]) (by simp [encode])
theorem RowMatch.ldF (x : Reg) : RowMatch.Statement (.ldF x) :=
  RowMatch.of_mode_num (m := 0xF) (nn := 0x29) (by simp [encode]) (by simp [encode])
theorem RowMatch.ldB (x : Reg) : RowMatch.Statement (.ldB x) :=
  RowMatch.of_mode_num (m := 0xF) (nn := 0x33) (by simp [encode]) (by simp [encode])
theorem RowMatch.stRegs (x : Reg) : RowMatch.Statement (.stRegs x) :=
  RowMatch.of_mode_num (m := 0xF) (nn := 0x55) (by simp [encode]) (by simp [encode])
theorem RowMatch.ldRegs (x : Reg) : RowMatch.Statement (.ldRegs x) :=
  RowMatch.of_mode_num (m := 0xF) (nn := 0x65) (by simp [encode]) (by simp [encode])

end Sys2Proof.Laws
end

