-- ==== Sys2Proof/Laws/Step.lean ====
section
/-! SUPPORT. What one step can do, said once: `StepCase s t` lists the cases of a step, and every answer of `step` is one of
them. In every case the schedule has moved on first. -/

namespace Sys2Proof.Machine

/-- The cases of one step: `u` is the state whose schedule has moved past the event. -/
inductive StepCase (s : State) : State → Prop where
  /-- the core's turn with RUN other than Running (30_encoding.md R84) -/
  | idle (u : State) (he : s.nextEvent = (.core, u)) (hr : s.run ≠ .running) : StepCase s u
  /-- the fetch faults (20_memory.md R60) -/
  | fetchFault (u : State) (he : s.nextEvent = (.core, u)) (hr : s.run = .running) (hf : s.fetch = none) :
      StepCase s (u.raiseFault .fetchOutOfRange)
  /-- the word decodes to nothing (60_exceptions.md R244) -/
  | illegal (u : State) (w : Word) (r : Reject) (he : s.nextEvent = (.core, u)) (hr : s.run = .running)
      (hf : s.fetch = some w) (hd : decodeWord s.cfg.zeroFamilyKey w = .error r) : StepCase s (u.decodeFailure w)
  /-- an instruction is executed -/
  | executed (u t : State) (w : Word) (i : Instr) (he : s.nextEvent = (.core, u)) (hr : s.run = .running)
      (hf : s.fetch = some w) (hd : decodeWord s.cfg.zeroFamilyKey w = .ok i) (hx : exec i u = .next t) :
      StepCase s t
  | ticked (u : State) (he : s.nextEvent = (.tick, u)) : StepCase s u.tick
  | keyed (u : State) (e : KeyEvent) (he : s.nextEvent = (.key e, u)) : StepCase s (u.applyKey e)
  | accepted (u : State) (he : s.nextEvent = (.acceptStalePress, u)) : StepCase s u.acceptStale
  | frameLost (u : State) (he : s.nextEvent = (.frameRxLost, u)) : StepCase s u.loseFrameRx
  | logLost (u : State) (he : s.nextEvent = (.logRxLost, u)) : StepCase s u.loseLogRx
  | stopped (u : State) (he : s.nextEvent = (.hostStop, u)) : StepCase s u.stopByHost

theorem coreStep_running {s : State} (h : s.run = .running) : coreStep s = instrStep s := by
  unfold coreStep; rw [h]

theorem coreStep_idle {s : State} (h : s.run ≠ .running) : coreStep s = .next s := by
  unfold coreStep
  cases hr : s.run <;> first | rfl | exact absurd hr h

theorem instrStep_none {s : State} (h : s.fetch = none) :
    instrStep s = .next (s.raiseFault .fetchOutOfRange) := by
  unfold instrStep; rw [h]

theorem instrStep_illegal {s : State} {w : Word} {r : Reject} (h : s.fetch = some w)
    (hd : decodeWord s.cfg.zeroFamilyKey w = .error r) : instrStep s = .next (s.decodeFailure w) := by
  unfold instrStep; rw [h]; simp [hd]

theorem instrStep_exec {s : State} {w : Word} {i : Instr} (h : s.fetch = some w)
    (hd : decodeWord s.cfg.zeroFamilyKey w = .ok i) : instrStep s = exec i s := by
  unfold instrStep; rw [h]; simp [hd]

/-- The core's turn as `nextEvent` has it. -/
theorem nextEvent_of_coreTurn {s : State} {rest : List Event} (h : s.coreTurn rest) :
    s.nextEvent = (.core, { s with sched := rest }) := by
  rcases h with h | ⟨h, rfl⟩
  · exact nextEvent_cons h
  · rw [nextEvent_nil h]; congr 1; rw [← h]

theorem step_core {s u : State} (h : s.nextEvent = (.core, u)) : step s = coreStep u := by
  unfold step; rw [h]

/-- The fields of the state whose schedule has moved on, but for the schedule. -/
theorem sched_only {s u : State} {e : Event} (h : s.nextEvent = (e, u)) : ∃ rest, u = { s with sched := rest } := by
  obtain ⟨rest, hr⟩ := nextEvent_state s
  exact ⟨rest, by rw [← hr, h]⟩

/-- Every answer of `step` is one of the cases. -/
theorem step_cases {s t : State} (h : step s = .next t) : StepCase s t := by
  obtain ⟨rest, hu⟩ := nextEvent_state s
  rcases he : s.nextEvent with ⟨e, u⟩
  rw [he] at hu
  have hstep := h
  unfold step at hstep
  rw [he] at hstep
  cases e with
  | core =>
    simp only at hstep
    have hrun : u.run = s.run := by rw [show u = _ from hu]
    have hfetch : u.fetch = s.fetch := by rw [show u = _ from hu]; rfl
    have hcfg : u.cfg = s.cfg := by rw [show u = _ from hu]
    by_cases hr : s.run = .running
    · rw [coreStep_running (hrun.trans hr)] at hstep
      cases hf : s.fetch with
      | none => rw [instrStep_none (hfetch.trans hf)] at hstep; cases hstep; exact .fetchFault u he hr hf
      | some w =>
        cases hd : decodeWord s.cfg.zeroFamilyKey w with
        | error r =>
          rw [instrStep_illegal (hfetch.trans hf) (by rw [hcfg]; exact hd)] at hstep
          cases hstep; exact .illegal u w r he hr hf hd
        | ok i =>
          rw [instrStep_exec (hfetch.trans hf) (by rw [hcfg]; exact hd)] at hstep
          exact .executed u t w i he hr hf hd hstep
    · rw [coreStep_idle (by rw [hrun]; exact hr)] at hstep
      cases hstep; exact .idle _ he hr
  | tick => cases hstep; exact .ticked u he
  | key e => cases hstep; exact .keyed u e he
  | acceptStalePress => cases hstep; exact .accepted u he
  | frameRxLost => cases hstep; exact .frameLost u he
  | logRxLost => cases hstep; exact .logLost u he
  | hostStop => cases hstep; exact .stopped u he

/-! ### Events, by cases -/

/-- A key event replaces the cell, and then ends a wait if it is a press. -/
theorem applyKey_cases (s : State) (e : KeyEvent) :
    (∃ x, s.run = .waiting x ∧ e.pressed = true ∧
      s.applyKey e = State.resolveWait { s with keys := ⟨e.bitmaskAfter, some ⟨e.index, e.pressed⟩⟩ } x e.index) ∨
    ((s.isWaiting = false ∨ e.pressed = false) ∧
      s.applyKey e = { s with keys := ⟨e.bitmaskAfter, some ⟨e.index, e.pressed⟩⟩ }) := by
  unfold State.applyKey State.isWaiting
  cases hr : s.run <;> cases hp : e.pressed <;> simp

/-- A stale press is taken up only where the configuration, RUN and KEYS.last allow it. -/
theorem acceptStale_cases (s : State) :
    (∃ x k, s.cfg.keywaitStale = .mayAccept ∧ s.run = .waiting x ∧ s.keys.last = some ⟨k, true⟩ ∧
      s.acceptStale = s.resolveWait x k) ∨
    ((s.isWaiting = false ∨ (∀ k, s.keys.last ≠ some ⟨k, true⟩) ∨ s.cfg.keywaitStale = .ignore) ∧
      s.acceptStale = s) := by
  unfold State.acceptStale State.isWaiting
  cases hk : s.cfg.keywaitStale
  · simp
  · cases hr : s.run with
    | waiting x =>
      cases hl : s.keys.last with
      | none => simp
      | some l =>
        obtain ⟨k, p⟩ := l
        cases p
        · simp
        · exact .inl ⟨x, k, rfl, rfl, rfl, rfl⟩
    | _ => simp

/-- The host's stop, by RUN. -/
theorem stopByHost_cases (s : State) :
    (s.ended = false ∧ s.stopByHost = s.setRun .stopped) ∨ (s.ended = true ∧ s.stopByHost = s) := by
  unfold State.stopByHost State.ended
  cases s.run <;> simp

/-! ### The host's test access (log entry 19) -/

theorem readByte_pokeByte_same {s : State} (h : Memory.rising 0x50 s.mem = true) (a : Nat) (b : Byte) :
    (s.pokeByte a b).readByte a = b := by
  unfold State.pokeByte
  split
  · rename_i ha
    simp [State.readByte, Memory.read, Memory.lookup_below (lo := 0x50) (by omega) h, Memory.unlisted, ha]
  · exact readByte_storeBytes_inside s a 0 [b] (by simp)

theorem readByte_pokeByte_ne (s : State) {a a' : Nat} (b : Byte) (h : a' ≠ a) :
    (s.pokeByte a b).readByte a' = s.readByte a' := by
  unfold State.pokeByte
  split
  · rename_i ha
    simp only [State.readByte, Memory.read, Memory.unlisted]
    congr 1
    split
    · rename_i ha'
      exact Vector.getElem_set_ne _ _ (Ne.symm h)
    · rfl
  · exact readByte_storeBytes_outside s a a' [b] (by simp; omega)

theorem rising_pokeByte {s : State} (h : Memory.rising 0x50 s.mem = true) (a : Nat) (b : Byte) :
    Memory.rising 0x50 (s.pokeByte a b).mem = true := by
  unfold State.pokeByte
  split
  · exact h
  · show Memory.rising 0x50 (Memory.write s.cfg.glyphRom s.mem a b) = true
    unfold Memory.write
    split
    · exact Memory.rising_erase _ _ _ h
    · exact Memory.rising_put _ _ _ _ h (by omega)

@[simp] theorem pokeByte_pc (s : State) (a : Nat) (b : Byte) : (s.pokeByte a b).pc = s.pc := by
  unfold State.pokeByte; split <;> rfl

/-- The word placed where the next step fetches is the word it fetches. -/
theorem fetch_placeWord {s : State} (w : Word) (h : Memory.rising 0x50 s.mem = true) :
    (s.placeWord w).fetch = some w := by
  unfold State.placeWord
  simp only
  generalize hpc : (if s.pc.toNat + 1 > 0xFFF then (0x200 : Word) else s.pc) = pc
  have hb : pc.toNat + 1 < 4096 := by
    rw [← hpc]; split
    · decide
    · omega
  rw [fetch_some (by simpa using hb)]
  simp only [pokeByte_pc]
  have hm : Memory.rising 0x50 ({ s with pc := pc, run := .running, sched := [] } : State).mem = true := h
  rw [readByte_pokeByte_ne _ _ (by omega), readByte_pokeByte_same hm, readByte_pokeByte_same (rising_pokeByte hm _ _)]
  rw [wordOfBytes_bytesOfWord]

end Sys2Proof.Machine
end

