-- ==== Sys2Proof/Tests/Slice0.lean ====
section
/-! SUPPORT. The model's own tests: expected values are those of spec/95_test_vectors.md (V-..., L1-...) or of the opcode map of
30_encoding.md R86, written out by hand. Every test is one step on a small state. After the tests, a witness for the hypotheses of
every statement of the obligations file. -/

namespace Sys2Proof.Tests

open Sys2Proof.Machine

/-! ### States -/

/-- The test vectors' start (95, Conventions), with SHIFT_SOURCE = Vx. -/
def base : State := State.resetWith
  { shiftSource := .vx, zeroFamilyKey := .addr12, keywaitStale := .ignore, onFrameSendFail := .fault, glyphRom := Config.glyphRom }

/-- The same with SHIFT_SOURCE = Vy. -/
def baseVy : State := { base with cfg := { base.cfg with shiftSource := .vy } }

/-- Registers set. -/
def regs (xs : List (Reg × Byte)) (s : State) : State := xs.foldl (fun s p => s.setReg p.1 p.2) s

/-- The state after one step whose fetched word is w. -/
def after (w : Word) (s : State) : State := match step (s.placeWord w) with
  | .next t => t
  | _ => s

/-- The state after one step of the schedule. -/
def next (s : State) : State := match step s with
  | .next t => t
  | _ => s

/-- V[x] and V[y]. -/
def two (s : State) (x y : Reg) : Byte × Byte := (s.reg x, s.reg y)

/-! ### WellFormed: what the checks refuse -/

/-- One word of each of the six illegal spaces of 30_encoding.md R89. -/
theorem test_wellFormed_illegal_words : legalWord .addr12 0x0100 = false ∧ legalWord .addr12 0x5121 = false ∧
    legalWord .addr12 0x8128 = false ∧ legalWord .addr12 0x912F = false ∧ legalWord .addr12 0xE09F = false ∧
    legalWord .addr12 0xF0FF = false := by decide

/-- With ZERO_FAMILY_KEY = low8, 0100 is legal and 0001 is not. -/
theorem test_wellFormed_low8 : legalWord .low8 0x0100 = true ∧ legalWord .low8 0x0001 = false := by decide

/-- A ROM of 3585 bytes does not fit, one of 3584 does (L1-10, L1-13). -/
theorem test_wellFormed_rom : romFits (List.replicate 3585 0x12) = false ∧ romFits (List.replicate 3584 0x12) = true := by
  simp only [romFits, List.length_replicate]; decide

/-- A press of key 7 whose mask does not show it disagrees. -/
theorem test_wellFormed_keyMask : keyMaskAgrees 7 true 0x0000 = false ∧ keyMaskAgrees 7 true 0x0080 = true := by decide

/-! ### Decoding: one word per constructor, bit by bit from R81 and R86 -/

theorem test_decode_zero_family : decodeWord .addr12 0b0000000000000000 = .ok .halt ∧
    decodeWord .addr12 0b0000000011100000 = .ok .cls ∧ decodeWord .addr12 0b0000000011101110 = .ok .ret := by decide

theorem test_decode_jumps_and_skips : decodeWord .addr12 0b0001001000110100 = .ok (.jp 0x234) ∧
    decodeWord .addr12 0b0010001100000001 = .ok (.call 0x301) ∧
    decodeWord .addr12 0b0011001101000010 = .ok (.seImm 3 0x42) ∧
    decodeWord .addr12 0b0100010000100100 = .ok (.sneImm 4 0x24) ∧
    decodeWord .addr12 0b0101000100100000 = .ok (.seReg 1 2) ∧
    decodeWord .addr12 0b1001001011110000 = .ok (.sneReg 2 15) := by decide

theorem test_decode_immediates : decodeWord .addr12 0b0110101000111100 = .ok (.ldImm 10 0x3C) ∧
    decodeWord .addr12 0b0111001011110000 = .ok (.addImm 2 0xF0) := by decide

theorem test_decode_alu : decodeWord .addr12 0b1000000100100000 = .ok (.ldReg 1 2) ∧
    decodeWord .addr12 0b1000000100100001 = .ok (.orReg 1 2) ∧ decodeWord .addr12 0b1000000100100010 = .ok (.andReg 1 2) ∧
    decodeWord .addr12 0b1000000100100011 = .ok (.xorReg 1 2) ∧ decodeWord .addr12 0b1000000100100100 = .ok (.addReg 1 2) ∧
    decodeWord .addr12 0b1000000100100101 = .ok (.subReg 1 2) ∧ decodeWord .addr12 0b1000000100100110 = .ok (.shr 1 2) ∧
    decodeWord .addr12 0b1000000100100111 = .ok (.subn 1 2) ∧ decodeWord .addr12 0b1000000100101110 = .ok (.shl 1 2) := by
  decide

theorem test_decode_index_random_draw : decodeWord .addr12 0b1010001011110000 = .ok (.ldI 0x2F0) ∧
    decodeWord .addr12 0b1011001100000100 = .ok (.jpV0 0x304) ∧ decodeWord .addr12 0b1100001100001111 = .ok (.rnd 3 0x0F) ∧
    decodeWord .addr12 0b1101000100100101 = .ok (.drw 1 2 5) := by decide

theorem test_decode_keys : decodeWord .addr12 0b1110001110011110 = .ok (.skp 3) ∧
    decodeWord .addr12 0b1110001110100001 = .ok (.sknp 3) := by decide

theorem test_decode_io : decodeWord .addr12 0b1111001100000111 = .ok (.ldVxDT 3) ∧
    decodeWord .addr12 0b1111000100001010 = .ok (.ldVxK 1) ∧ decodeWord .addr12 0b1111001000010101 = .ok (.ldDTVx 2) ∧
    decodeWord .addr12 0b1111001000011000 = .ok (.ldSTVx 2) ∧ decodeWord .addr12 0b1111010100011110 = .ok (.addI 5) ∧
    decodeWord .addr12 0b1111000000101001 = .ok (.ldF 0) ∧ decodeWord .addr12 0b1111000000110011 = .ok (.ldB 0) ∧
    decodeWord .addr12 0b1111001101010101 = .ok (.stRegs 3) ∧ decodeWord .addr12 0b1111111101100101 = .ok (.ldRegs 15) := by
  decide

/-- V-FLOW-5, V-FLOW-6, V-FLOW-7: the two keys of the 0x0 family. -/
theorem test_decode_zero_family_key : decodeWord .addr12 0x0100 = .error (.illegalZeroFamily 0x0100) ∧
    decodeWord .low8 0x0100 = .ok .halt ∧ decodeWord .low8 0x03E0 = .ok .cls ∧ decodeWord .low8 0x0FEE = .ok .ret := by decide

/-- The host's reading of a row, and a byte list too short for a word. -/
theorem test_decode_table_word : decodeTableWord 16 0xD125 = some (.drw 1 2 5) ∧ decodeTableWord 16 0x5121 = none ∧
    decodeBytes .addr12 [0xD1] = .error .truncated ∧ encode (.drw 1 2 5) = 0xD125 := by decide

/-! ### 0x0 family, jumps, call, skips (95 section 2.1) -/

/-- V-FLOW-1. -/
theorem test_halt : ((after 0x0000 base).run, (after 0x0000 base).pc, (after 0x0000 base).log) =
    (.halted, 0x200, [.haltNotice 0x200]) := by decide

/-- V-FLOW-2. -/
theorem test_cls : (fun t : State => (fbRow t.fb 5, fbRow t.fb 31, t.pc, t.frames))
    (after 0x00E0 { base with pc := 0x300, fb := fbSetRow (fbSetRow base.fb 5 0xFFFF000000000000) 31 1 }) =
    (0, 0, 0x302, []) := by decide

/-- V-FLOW-4. -/
theorem test_ret : (fun t : State => (t.sp, t.pc, t.stack[0]))
    (after 0x00EE { base with pc := 0x300, sp := 1, stack := base.stack.set 0 0x200 }) = (0, 0x202, 0x200) := by decide

/-- V-FLOW-3. -/
theorem test_ret_underflow : (fun t : State => (t.run, t.sp, t.pc, t.log)) (after 0x00EE base) =
    (.faulted .stackUnderflow, 0, 0x200, [.faultReport .stackUnderflow 0x200]) := by decide

/-- V-FLOW-8: and the next step raises Fault(1). -/
theorem test_jp : (fun t : State => (t.pc, (next t).run, (next t).pc)) (after 0x1FFF base) =
    (0x0FFF, .faulted .fetchOutOfRange, 0x0FFF) := by decide

/-- V-FLOW-10. -/
theorem test_call : (fun t : State => (t.stack[0], t.sp, t.pc)) (after 0x2300 base) = (0x200, 1, 0x300) := by decide

/-- V-FLOW-11. -/
theorem test_call_overflow : (fun t : State => (t.run, t.sp, t.pc)) (after 0x2300 { base with sp := 16 }) =
    (.faulted .stackOverflow, 16, 0x200) := by decide

/-- V-FLOW-13. -/
theorem test_seImm : ((after 0x3342 (regs [(3, 0x42)] base)).pc, (after 0x3342 (regs [(3, 0x41)] base)).pc) = (0x204, 0x202) := by
  decide

/-- V-FLOW-14. -/
theorem test_sneImm : ((after 0x4342 (regs [(3, 0x41)] base)).pc, (after 0x4342 (regs [(3, 0x42)] base)).pc) = (0x204, 0x202) := by
  decide

/-- V-FLOW-15. -/
theorem test_seReg : ((after 0x5120 (regs [(1, 7), (2, 7)] base)).pc, (after 0x5120 (regs [(1, 7), (2, 8)] base)).pc) =
    (0x204, 0x202) := by decide

/-- V-FLOW-17, V-FLOW-18. -/
theorem test_sneReg : ((after 0x9120 (regs [(1, 7), (2, 8)] base)).pc, (after 0x9110 (regs [(1, 7)] base)).pc) =
    (0x204, 0x202) := by decide

/-- L1-17, V-FLOW-21: a decode failure is logged and passed over, at the end of memory too. -/
theorem test_decode_failure : (fun t : State => (t.log, t.pc, t.run)) (after 0x5121 base) =
    ([.decodeFailure 0x200 0x5121], 0x202, .running) ∧ (after 0x5121 { base with pc := 0xFFE }).pc = 0x1000 := by decide

/-! ### Immediates (2.2) -/

/-- V-IMM-1. -/
theorem test_ldImm : ((after 0x6A3C base).reg 10, (after 0x6A3C base).pc) = (0x3C, 0x202) := by decide

/-- V-IMM-3, V-IMM-5. -/
theorem test_addImm : two (after 0x7220 (regs [(2, 0xF0), (15, 7)] base)) 2 15 = (0x10, 7) ∧
    (after 0x7F01 (regs [(15, 0xFF)] base)).reg 15 = 0 := by decide

/-! ### Arithmetic and logic (2.3) -/

/-- V-ALU-1. -/
theorem test_ldReg : two (after 0x8120 (regs [(2, 0x9C)] base)) 1 2 = (0x9C, 0x9C) := by decide

/-- V-ALU-2. -/
theorem test_or : two (after 0x8121 (regs [(1, 0x0F), (2, 0xF0), (15, 5)] base)) 1 15 = (0xFF, 5) := by decide

/-- V-ALU-3. -/
theorem test_and : (after 0x8122 (regs [(1, 0x3C), (2, 0x0F)] base)).reg 1 = 0x0C := by decide

/-- V-ALU-4. -/
theorem test_xor : (after 0x8123 (regs [(1, 0x3C), (2, 0x0F)] base)).reg 1 = 0x33 := by decide

/-- V-ALU-8, V-ALU-9. -/
theorem test_add : two (after 0x8124 (regs [(1, 0xFF), (2, 1)] base)) 1 15 = (0, 1) ∧
    two (after 0x8124 (regs [(1, 0x80), (2, 0x7F)] base)) 1 15 = (0xFF, 0) := by decide

/-- V-ALU-11, V-ALU-12: VF as destination and as source. -/
theorem test_add_vf : (after 0x8F14 (regs [(15, 0xF0), (1, 0x20)] base)).reg 15 = 1 ∧
    two (after 0x81F4 (regs [(1, 0x10), (15, 0xF5)] base)) 1 15 = (5, 1) := by decide

/-- V-ALU-15, V-ALU-16. -/
theorem test_sub : two (after 0x8125 (regs [(1, 5), (2, 5)] base)) 1 15 = (0, 0) ∧
    two (after 0x8125 (regs [(1, 1), (2, 2)] base)) 1 15 = (0xFF, 0) := by decide

/-- V-ALU-13, V-ALU-17. -/
theorem test_sub_vf : (after 0x8F15 (regs [(15, 5), (1, 3)] base)).reg 15 = 2 ∧
    two (after 0x81F5 (regs [(1, 3), (15, 1)] base)) 1 15 = (2, 1) := by decide

/-- V-ALU-21. -/
theorem test_shr : two (after 0x8126 (regs [(1, 4), (2, 0xFF)] base)) 1 15 = (2, 0) ∧
    two (after 0x8126 (regs [(1, 4), (2, 0xFF)] baseVy)) 1 15 = (0x7F, 1) := by decide

/-- V-ALU-22, V-ALU-23. -/
theorem test_shr_vf : (after 0x8F06 (regs [(15, 6)] base)).reg 15 = 3 ∧
    two (after 0x81F6 (regs [(1, 0x10), (15, 3)] baseVy)) 1 15 = (1, 1) := by decide

/-- V-ALU-24, V-ALU-25. -/
theorem test_subn : two (after 0x8127 (regs [(1, 3), (2, 5)] base)) 1 15 = (2, 1) ∧
    two (after 0x8127 (regs [(1, 5), (2, 3)] base)) 1 15 = (0xFE, 0) := by decide

/-- V-ALU-27. -/
theorem test_subn_vf : (after 0x8F17 (regs [(15, 3), (1, 5)] base)).reg 15 = 2 := by decide

/-- V-ALU-30. -/
theorem test_shl : two (after 0x812E (regs [(1, 1), (2, 0x80)] base)) 1 15 = (2, 0) ∧
    two (after 0x812E (regs [(1, 1), (2, 0x80)] baseVy)) 1 15 = (0, 1) := by decide

/-- V-ALU-31: with x = y the reset state itself, whose SHIFT_SOURCE nothing constrains, gives the value. -/
theorem test_shl_vf : (after 0x8FFE (regs [(15, 0x81)] State.reset)).reg 15 = 2 := by decide

/-! ### Index, indexed jump, random (2.4) -/

/-- V-IJR-1. -/
theorem test_ldI : ((after 0xA2F0 base).i, (after 0xA2F0 base).pc) = (0x2F0, 0x202) := by decide

/-- V-IJR-3, V-IJR-5: the sum is not reduced. -/
theorem test_jpV0 : (after 0xBFFF (regs [(0, 0xFF)] base)).pc = 0x10FE ∧ (after 0xBFFF (regs [(0, 1)] base)).pc = 0x1000 := by
  decide

/-- V-IJR-7: under the mask 0, any draw gives 0. -/
theorem test_rnd : (after 0xC300 (regs [(3, 9)] base)).reg 3 = 0 := by
  show Config.randomDraw 0 &&& 0 = 0
  exact BitVec.and_zero

/-! ### Draw (2.5) -/

/-- A state with I = 0x300 and one sprite byte there. -/
def sprite (b : Byte) : State := (base.storeBytes 0x300 [b]).setI 0x300

/-- V-DRW-1, with glyph 5 of the glyph ROM. -/
theorem test_drw : (fun t : State => (fbRow t.fb 3, fbRow t.fb 4, fbRow t.fb 6, t.reg 15, t.pc, t.frames.length))
    (after 0xD125 (regs [(1, 2), (2, 3)] (base.setI 0x19))) =
    (0x3C00000000000000, 0x2000000000000000, 0x0400000000000000, 0, 0x202, 1) := by decide

/-- V-DRW-3, V-DRW-16, V-DRW-18: dropped pixels, a collision, and x = F. -/
theorem test_drw_rows : fbRow (after 0xD121 (regs [(1, 60)] (sprite 0xFF))).fb 0 = 0xF ∧
    (fun t : State => (fbRow t.fb 0, t.reg 15)) (after 0xD121 ((sprite 0x80).setFb (fbSetRow base.fb 0 0x8000000000000000))) =
      (0, 1) ∧
    (fun t : State => (fbRow t.fb 0, t.reg 15)) (after 0xDF11 (regs [(15, 8)] (sprite 0xFF))) = (0x00FF000000000000, 0) := by
  decide

/-! ### Key skips (2.6) -/

/-- A state with a key mask. -/
def keysDown (mask : Word) : State := { base with keys := { mask := mask, last := none } }

/-- V-KEY-1, V-KEY-3, V-KEY-6. -/
theorem test_skp : (after 0xE39E (regs [(3, 3)] (keysDown 8))).pc = 0x204 ∧ (after 0xE09E base).pc = 0x202 ∧
    (after 0xE09E (regs [(0, 0x10)] base)).run = .faulted .keyIndexOutOfRange := by decide

/-- V-KEY-2, V-KEY-4, V-KEY-7. -/
theorem test_sknp : (after 0xE3A1 (regs [(3, 3)] (keysDown 8))).pc = 0x202 ∧ (after 0xE0A1 base).pc = 0x204 ∧
    (after 0xE0A1 (regs [(0, 0xFF)] base)).run = .faulted .keyIndexOutOfRange := by decide

/-! ### Fxnn (2.7) -/

/-- V-F-1. -/
theorem test_ldVxDT : (after 0xF307 (base.setDt 0x2A)).reg 3 = 0x2A := by decide

/-- V-F-4. -/
theorem test_ldVxK : ((after 0xF10A base).run, (after 0xF10A base).pc) = (.waiting 1, 0x200) := by decide

/-- A core that waits with register field 1. -/
def waiting : State := base.setRun (.waiting 1)

/-- V-F-5, V-F-6: a release does not end the wait, a press does. -/
theorem test_keyWait :
    (fun t : State => (t.run, t.pc, t.keys.last)) (next { waiting with sched := [.key ⟨2, false, 0⟩] }) =
      (.waiting 1, 0x200, some ⟨2, false⟩) ∧
    (fun t : State => (t.run, t.pc, t.reg 1, t.keys.mask)) (next { waiting with sched := [.key ⟨7, true, 0x80⟩] }) =
      (.running, 0x202, 7, 0x80) := by decide

/-- V-F-2. -/
theorem test_ldDTVx : (after 0xF215 (regs [(2, 0x20)] base)).dt = 0x20 := by decide

/-- V-F-3. -/
theorem test_ldSTVx : (after 0xF218 (regs [(2, 0x10)] base)).st = 0x10 := by decide

/-- V-F-11, V-F-10: modulo 2^16, and no flag. -/
theorem test_addI : (after 0xF01E (regs [(0, 2)] (base.setI 0xFFFF))).i = 1 ∧
    (fun t : State => (t.i, t.reg 15)) (after 0xF51E (regs [(5, 0x10), (15, 4)] (base.setI 0x300))) = (0x310, 4) := by decide

/-- V-F-13. -/
theorem test_ldF : (after 0xF029 (regs [(0, 0x1A)] base)).i = 0x32 ∧ (after 0xF029 (regs [(0, 0x0F)] base)).i = 0x4B := by decide

/-- V-F-14 with 254, V-F-15: the last three bytes of memory. -/
theorem test_ldB : (fun t : State => (t.loadBytes 0x300 3, t.i)) (after 0xF033 (regs [(0, 254)] (base.setI 0x300))) =
    ([2, 5, 4], 0x300) ∧ (after 0xF033 (regs [(0, 123)] (base.setI 0xFFD))).loadBytes 0xFFD 3 = [1, 2, 3] := by decide

/-- V-F-16, V-F-17. -/
theorem test_ldB_faults : (after 0xF033 (base.setI 0xFFE)).run = .faulted .memWriteOutOfRange ∧
    (fun t : State => (t.run, t.readByte 0x4F)) (after 0xF033 (base.setI 0x04F)) = (.faulted .glyphRegionWrite, 0x80) := by decide

/-- V-F-19 at its ends, V-F-20: all sixteen registers, whatever x is. -/
theorem test_stRegs : (fun t : State => (t.readByte 0x400, t.readByte 0x403, t.readByte 0x404, t.readByte 0x40F, t.i))
    (after 0xF355 (regs [(0, 9), (3, 3), (4, 4), (15, 15)] (base.setI 0x400))) = (9, 3, 4, 15, 0x400) ∧
    (after 0xF055 (regs [(15, 0xAB)] (base.setI 0xFF0))).readByte 0xFFF = 0xAB := by decide

/-- V-F-23: the first bytes of the glyph ROM. -/
theorem test_ldRegs : (after 0xF065 base).v.toList =
    [0xF0, 0x90, 0x90, 0x90, 0xF0, 0x20, 0x60, 0x20, 0x20, 0x70, 0xF0, 0x10, 0xF0, 0x80, 0xF0, 0xF0] ∧
    (after 0xF065 (base.setI 0xFF1)).run = .faulted .memReadOutOfRange := by decide

/-! ### Events, boot, and the host's access (2.8) -/

/-- V-SYS-2. -/
theorem test_tick : (fun t : State => (t.dt, t.st)) (next { base with st := 3, sched := [.tick] }) = (0, 2) := by decide

/-- V-SYS-7: a tick, and then the core's turn, after a halt. -/
theorem test_ended : next { base with run := .halted, dt := 5, sched := [.tick] } = { base with run := .halted, dt := 4 } ∧
    next { base with run := .halted } = { base with run := .halted } := by decide

/-- V-SYS-4: a ROM of no bytes; the first step halts. -/
theorem test_boot_empty : ∃ t, boot base.cfg (some []) = .next t ∧ (next t).run = .halted ∧ (next t).pc = 0x200 :=
  ⟨_, rfl, by decide, by decide⟩

/-- L1-10. -/
theorem test_boot_too_large : boot base.cfg (some (List.replicate 3585 0x12)) = .fault .romTooLarge := by
  simp only [boot, List.length_replicate]; rfl

/-- The host's access: the first step after reset runs the word placed. -/
theorem test_withFetchWord : step (State.reset.withFetchWord 16 0x6A3C) = exec (.ldImm 10 0x3C) (State.reset.withFetchWord 16 0x6A3C) := by
  rfl

/-! ### Witnesses: a concrete state and operands that meet the hypotheses of each statement, clause by clause -/

/-- `base` with a word placed at PC. -/
def at_ (w : Word) : State := base.placeWord w

/-- A state whose next event is e. -/
def due (e : Event) (s : State) : State := { s with sched := [e] }

/-- The core's last event is a press of key 7. -/
def pressed7 (s : State) : State := { s with keys := { mask := 0x80, last := some ⟨7, true⟩ } }

/-- KEYWAIT_STALE = may_accept. -/
def accepting (s : State) : State := { s with cfg := { s.cfg with keywaitStale := .mayAccept } }

theorem witness_EncodeOfDecode : decodeWord .addr12 0xD125 = .ok (.drw 1 2 5) := by decide

theorem witness_OpcodeMap_fields : (1 : Reg).val = (0xD125 : Word).toNat / 256 % 16 ∧ (2 : Reg).val = (0xD125 : Word).toNat / 16 % 16 ∧
    (5 : Nibble).toNat = (0xD125 : Word).toNat % 16 ∧ (0x25 : Byte).toNat = (0xD125 : Word).toNat % 256 ∧
    (0x125 : Addr12).toNat = (0xD125 : Word).toNat % 4096 := by decide

/-- Each row of the map selects a word (under both keys; under low8, 0F00, 0FE0 and 0FEE as well), in the map's order. -/
def rowWords : List Word := [0x0000, 0x00E0, 0x00EE, 0x1FFF, 0x2FFF, 0x3FFF, 0x4FFF, 0x5FF0, 0x6FFF, 0x7FFF, 0x8FF0, 0x8FF1,
  0x8FF2, 0x8FF3, 0x8FF4, 0x8FF5, 0x8FF6, 0x8FF7, 0x8FFE, 0x9FF0, 0xAFFF, 0xBFFF, 0xCFFF, 0xDFFF] ++
  [0xEF9E, 0xEFA1, 0xFF07, 0xFF0A, 0xFF15, 0xFF18, 0xFF1E, 0xFF29, 0xFF33, 0xFF55, 0xFF65]

theorem witness_OpcodeMap_rows : List.zipWith OpcodeRow.matchesWord (opcodeRows .addr12) rowWords = List.replicate 35 true ∧
    List.zipWith OpcodeRow.matchesWord (opcodeRows .low8) ([0x0F00, 0x0FE0, 0x0FEE] ++ rowWords.drop 3) = List.replicate 35 true ∧
    legalWord .addr12 0xFFFF = false ∧ legalWord .low8 0x0FFF = false := by decide

theorem witness_OpcodeRowsDoNotOverlap : (opcodeRows .addr12)[34].matchesWord 0xFF65 = true := by decide

theorem witness_StepRuns_notRunning : waiting.coreTurn [] ∧ waiting.run ≠ .running := ⟨.inr ⟨rfl, rfl⟩, by decide⟩

theorem witness_StepRuns_fetchFault : (due .core { base with pc := 0xFFF }).coreTurn [] ∧
    (due .core { base with pc := 0xFFF }).run = .running ∧ (due .core { base with pc := 0xFFF }).fetch = none :=
  ⟨.inl rfl, rfl, by decide⟩

theorem witness_StepRuns_illegal : (at_ 0x5121).coreTurn [] ∧ (at_ 0x5121).run = .running ∧ (at_ 0x5121).fetch = some 0x5121 ∧
    decodeWord (at_ 0x5121).cfg.zeroFamilyKey 0x5121 = .error (.illegalFiveFamily 0x5121) ∧
    legalWord (at_ 0x5121).cfg.zeroFamilyKey 0x5121 = false := ⟨.inr ⟨rfl, rfl⟩, rfl, by decide, by decide, by decide⟩

theorem witness_StepRuns_executes : (due .core (at_ 0x6A3C)).coreTurn [] ∧ (at_ 0x6A3C).fetch = some 0x6A3C ∧
    decodeWord (at_ 0x6A3C).cfg.zeroFamilyKey 0x6A3C = .ok (.ldImm 10 0x3C) := ⟨.inl rfl, by decide, by decide⟩

theorem witness_Fetch_lastWord : ({ base with pc := 0xFFE } : State).pc.toNat + 1 < 4096 ∧
    ({ base with pc := 0xFFF } : State).pc.toNat + 1 ≥ 4096 := by decide

theorem witness_TickLowersBothTimers : (due .tick base).sched = .tick :: [] := rfl

theorem witness_KeyEvent_press : (due (.key ⟨15, true, 0x8000⟩) waiting).sched = .key ⟨15, true, 0x8000⟩ :: [] ∧
    (due (.key ⟨15, true, 0x8000⟩) waiting).run = .waiting 1 := ⟨rfl, rfl⟩

theorem witness_KeyEvent_noEffect : (due (.key ⟨0, false, 0⟩) waiting).sched = .key ⟨0, false, 0⟩ :: [] ∧
    base.isWaiting = false := ⟨rfl, rfl⟩

theorem witness_StalePress_taken : (due .acceptStalePress (accepting (pressed7 waiting))).sched = .acceptStalePress :: [] ∧
    (accepting (pressed7 waiting)).run = .waiting 1 ∧ (accepting (pressed7 waiting)).keys.last = some ⟨7, true⟩ ∧
    (accepting (pressed7 waiting)).cfg.keywaitStale = .mayAccept := ⟨rfl, rfl, rfl, rfl⟩

theorem witness_StalePress_refused : (due .acceptStalePress waiting).sched = .acceptStalePress :: [] ∧ base.isWaiting = false ∧
    (∀ k, waiting.keys.last ≠ some ⟨k, true⟩) ∧ (pressed7 waiting).cfg.keywaitStale = .ignore := ⟨rfl, rfl, by decide, rfl⟩

theorem witness_HostStopAndReceiverLoss : (due .hostStop waiting).sched = .hostStop :: [] ∧ waiting.ended = false ∧
    (base.setRun .halted).ended = true ∧ (due .frameRxLost base).sched = .frameRxLost :: [] ∧
    (due .logRxLost base).sched = .logRxLost :: [] := ⟨rfl, rfl, rfl, rfl, rfl⟩

theorem witness_Call_room : ({ base with sp := 15 } : State).sp.val < 16 ∧ ({ base with sp := 16 } : State).sp.val = 16 ∧
    (0 : Fin 16).val ≠ ({ base with sp := 15 } : State).sp.val := by decide

theorem witness_Ret_entries : ({ base with sp := 16 } : State).sp.val ≠ 0 ∧ base.sp.val = 0 ∧
    (15 : Fin 16).val = ({ base with sp := 16 } : State).pop.sp.val := by decide

theorem witness_Skips : ((regs [(3, 0x42)] base).reg 3).toNat = (0x42 : Byte).toNat ∧ (base.reg 3).toNat ≠ (0x42 : Byte).toNat ∧
    (base.reg 1).toNat = (base.reg 2).toNat ∧ ((regs [(1, 0xFF)] base).reg 1).toNat ≠ (base.reg 2).toNat := by decide

theorem witness_Alu_notVf : (14 : Reg) ≠ vf := by decide

theorem witness_Shift_vx : base.cfg.shiftSource = .vx ∧ baseVy.cfg.shiftSource = .vy ∧
    (base.cfg.shiftSource = .vx → (0 : Byte) = base.reg 1) ∧ (base.cfg.shiftSource = .vy → (0 : Byte) = base.reg 2) := by decide

theorem witness_ShiftSource_otherInstruction : (∀ x y : Reg, x ≠ y → Instr.shr 1 1 ≠ .shr x y ∧ Instr.shr 1 1 ≠ .shl x y) ∧
    ∃ t, exec (.shr 1 1) base = .next t :=
  ⟨fun _ _ h => ⟨fun e => h (by cases e; rfl), by simp⟩, _, rfl⟩

theorem witness_KeySkips : ((regs [(3, 15)] (keysDown 0x8000)).reg 3).toNat ≤ 15 ∧
    (regs [(3, 15)] (keysDown 0x8000)).keys.mask.toNat / 2 ^ 15 % 2 = 1 ∧ (keysDown 0x7FFF).keys.mask.toNat / 2 ^ 15 % 2 = 0 ∧
    ((regs [(3, 16)] base).reg 3).toNat > 15 := by decide

theorem witness_Bcd : 0x50 ≤ (base.setI 0x50).i.toNat ∧ (base.setI 0x50).i.toNat + 3 ≤ 4096 ∧
    0x50 ≤ (base.setI 0xFFD).i.toNat ∧ (base.setI 0xFFD).i.toNat + 3 ≤ 4096 := by decide

theorem witness_DumpAndLoad : 0x50 ≤ (base.setI 0x50).i.toNat ∧ (base.setI 0x50).i.toNat + 16 ≤ 4096 ∧
    0x50 ≤ (base.setI 0xFF0).i.toNat ∧ (base.setI 0xFF0).i.toNat + 16 ≤ 4096 ∧ base.i.toNat + 16 ≤ 4096 := by decide

theorem witness_StoreFaults : (base.setI 0xFFE).i.toNat + 3 > 4096 ∧ (base.setI 0x4F).i.toNat < 0x50 ∧
    (base.setI 0xFF1).i.toNat + 16 > 4096 := by decide

/-- The draw's clauses: the largest operands, no bytes with operands that would fault otherwise, a collision, and none. -/
theorem witness_Draw_inRange : drawInRange (regs [(1, 63), (2, 31)] (base.setI 0xFFF)) 1 2 1 ∧
    drawInRange (regs [(1, 64), (2, 32)] (base.setI 0x1000)) 1 2 0 ∧ base.frameRxLive = true := by
  unfold drawInRange; decide

theorem witness_Draw_collision : (∃ r c, pixel ((sprite 0x80).setFb (fbSetRow base.fb 0 0x8000000000000000)).fb r c = true ∧
    pixel (after 0xD121 ((sprite 0x80).setFb (fbSetRow base.fb 0 0x8000000000000000))).fb r c = false) ∧
    ¬∃ r c, pixel base.fb r c = true ∧ pixel (after 0xD120 base).fb r c = false := by
  refine ⟨⟨0, 0, by decide⟩, ?_⟩
  rintro ⟨r, c, h, -⟩
  have e : pixel base.fb r c = false := by simp [pixel, base, State.resetWith]
  rw [e] at h; cases h

theorem witness_Draw_checks : (base.setI 0xFFF).i.toNat + (2 : Nibble).toNat > 4096 ∧
    base.i.toNat + (2 : Nibble).toNat ≤ 4096 ∧ (2 : Nibble).toNat > 0 ∧
    ((regs [(2, 31)] base).reg 2).toNat + (2 : Nibble).toNat > 32 ∧
    ((regs [(2, 30)] base).reg 2).toNat + (2 : Nibble).toNat ≤ 32 ∧ ((regs [(1, 64)] base).reg 1).toNat > 63 := by decide

theorem witness_Draw_noReceiver : drawInRange { base with frameRxLive := false } 1 2 5 ∧
    ({ base with frameRxLive := false } : State).frameRxLive = false ∧ base.cfg.onFrameSendFail = .fault ∧
    ({ base.cfg with onFrameSendFail := .logAndContinue } : Params).onFrameSendFail = .logAndContinue := by
  unfold drawInRange; decide

/-- The second draw's two cases: the first draw turns a pixel on, or none. -/
theorem witness_DrawTwice : (1 : Reg) ≠ vf ∧ (∃ r c, pixel (sprite 0x80).fb r c = false ∧ pixel (after 0xD121 (sprite 0x80)).fb r c = true) ∧
    ¬∃ r c, pixel base.fb r c = false ∧ pixel (after 0xD120 base).fb r c = true := by
  refine ⟨by decide, ⟨0, 0, by decide⟩, ?_⟩
  rintro ⟨r, c, -, h⟩
  have e : pixel (after 0xD120 base).fb r c = false := by
    have : (after 0xD120 base).fb = base.fb := by decide
    rw [this]; simp [pixel, base, State.resetWith]
  rw [e] at h; cases h

theorem witness_Reset : (79 : Nat) < 80 ∧ 80 ≤ (80 : Nat) := by decide

theorem witness_Boot : (List.replicate 3584 (0x12 : Byte)).length ≤ 3584 ∧ (List.replicate 3585 (0x12 : Byte)).length > 3584 ∧
    3583 < (List.replicate 3584 (0x12 : Byte)).length ∧ 0x1FF < 0x200 ∧ 0x200 + ([] : List Byte).length ≤ 0x200 := by
  simp only [List.length_replicate]; decide

/-- A state that meets the invariant, and its step: for EveryStepKeepsTheInvariant, OnlyStoresChangeMemoryAndNeverTheGlyphs,
FramebufferAndStreamsChangeOnlyAsStated and OnlyCallPushesAndOnlyRetPops. -/
theorem witness_InvAndStep : base.Inv ∧ ∃ t, step base = .next t := ⟨by decide, _, rfl⟩

theorem witness_BootedRun : boot base.cfg (some [0x12, 0x00]) = .next (State.booted base.cfg [0x12, 0x00]) := rfl

theorem witness_IndexWriter : ∃ t, step (at_ 0xA2F0) = .next t ∧ t.i ≠ (at_ 0xA2F0).i := ⟨_, rfl, by decide⟩

/-- The two loss events change their own liveness. -/
theorem witness_ReceiverLosses : (∃ t, step (due .frameRxLost base) = .next t ∧ t.frameRxLive = false ∧ t.logRxLive = true) ∧
    ∃ t, step (due .logRxLost base) = .next t ∧ t.frameRxLive = true ∧ t.logRxLive = false :=
  ⟨⟨_, rfl, rfl, rfl⟩, ⟨_, rfl, rfl, rfl⟩⟩

theorem witness_ReceiversLost : ∃ t, step ({ base with frameRxLive := false, logRxLive := false } : State) = .next t := ⟨_, rfl⟩

/-- Every kind of run: running, waiting, ended. -/
theorem witness_Runs : base.run = .running ∧ waiting.run = .waiting 1 ∧ (base.setRun .stopped).ended = true ∧
    ∃ t, step (base.setRun .stopped) = .next t := ⟨rfl, rfl, rfl, _, rfl⟩

/-- A precise fault, and FrameChannelClosed. -/
theorem witness_FaultsArePrecise : (∃ t, step (at_ 0x00EE) = .next t ∧ (at_ 0x00EE).ended = false ∧ t.run = .faulted .stackUnderflow) ∧
    ∃ t, step ({ at_ 0xD120 with frameRxLive := false } : State) = .next t ∧ t.run = .faulted .frameChannelClosed :=
  ⟨⟨_, rfl, by decide, by decide⟩, ⟨_, rfl, by decide⟩⟩

/-- Every fault code an instruction raises is raised by one. -/
theorem witness_FaultCodes_memory : base.isFaulted = false ∧
    (∃ t, exec (.ldRegs 0) (base.setI 0xFF1) = .next t ∧ t.run = .faulted .memReadOutOfRange) ∧
    (∃ t, exec (.ldB 0) (base.setI 0xFFE) = .next t ∧ t.run = .faulted .memWriteOutOfRange) ∧
    (∃ t, exec (.stRegs 0) (base.setI 0x4F) = .next t ∧ t.run = .faulted .glyphRegionWrite) :=
  ⟨rfl, ⟨_, rfl, by decide⟩, ⟨_, rfl, by decide⟩, ⟨_, rfl, by decide⟩⟩

theorem witness_FaultCodes_draw :
    (∃ t, exec (.drw 1 2 2) (regs [(2, 31)] base) = .next t ∧ t.run = .faulted .drawRowOutOfRange) ∧
    (∃ t, exec (.drw 1 2 1) (regs [(1, 64)] base) = .next t ∧ t.run = .faulted .drawColumnOutOfRange) ∧
    (∃ t, exec (.drw 1 2 0) { base with frameRxLive := false } = .next t ∧ t.run = .faulted .frameChannelClosed) :=
  ⟨⟨_, rfl, by decide⟩, ⟨_, rfl, by decide⟩, ⟨_, rfl, by decide⟩⟩

theorem witness_FaultCodes_stackAndKeys :
    (∃ t, exec (.call 0) { base with sp := 16 } = .next t ∧ t.run = .faulted .stackOverflow) ∧
    (∃ t, exec .ret base = .next t ∧ t.run = .faulted .stackUnderflow) ∧
    (∃ t, exec (.skp 3) (regs [(3, 16)] base) = .next t ∧ t.run = .faulted .keyIndexOutOfRange) :=
  ⟨⟨_, rfl, by decide⟩, ⟨_, rfl, by decide⟩, ⟨_, rfl, by decide⟩⟩

/-- The three ways of ST: a tick, Fx18, and neither of them. -/
theorem witness_NothingReads : (due .tick base).nextEvent.1 = .tick ∧ (at_ 0xF218).executes (.ldSTVx 2) ∧
    waiting.nextEvent.1 ≠ .tick ∧ (∀ x, ¬waiting.executes (.ldSTVx x)) ∧ ∃ t, step waiting = .next t :=
  ⟨rfl, ⟨rfl, rfl, 0xF218, by decide, by decide⟩, by decide, fun _ h => absurd h.2.1 (by decide), _, rfl⟩

theorem witness_CanonicalMemories : Memory.wf Config.glyphRom [(0x50, 1), (0xFFF, 2)] = true ∧
    ∀ a, Memory.read Config.glyphRom [(0x50, 1), (0xFFF, 2)] a = Memory.read Config.glyphRom [(0x50, 1), (0xFFF, 2)] a :=
  ⟨by decide, fun _ => rfl⟩

end Sys2Proof.Tests
end

section
/-! Who writes SP and STACK (10_state.md R26): no event of the schedule does, and of the instructions only 2nnn and 00EE do. -/

namespace Sys2Proof.Machine

/-! ### The three things a step can do to the stack -/

/-- SP and STACK are as before. -/
def SameStack (s t : State) : Prop := t.sp = s.sp ∧ t.stack = s.stack

/-- PC was written to STACK[SP], no other entry was written, and SP is one more. -/
def PushedPc (s t : State) : Prop :=
  t.sp.val = s.sp.val + 1 ∧ ∀ k : Fin 16, t.stack[k.val] = if k.val = s.sp.val then s.pc else s.stack[k.val]

/-- SP is one less, the run goes on after the address in STACK[SP], and no entry was written. -/
def PoppedPc (s t : State) : Prop :=
  t.sp.val + 1 = s.sp.val ∧ t.stack = s.stack ∧ ∀ k : Fin 16, k.val = t.sp.val → t.pc = s.stack[k.val] + 2

/-! ### The operations -/

theorem pushedPc_push (s : State) (h : s.sp.val < 16) (w : Word) : PushedPc s ((s.push s.pc h).setPc w) := by
  refine ⟨rfl, fun k => ?_⟩
  simp [Vector.getElem_set, eq_comm]

theorem poppedPc_pop (s : State) (h : s.sp.val ≠ 0) : PoppedPc s (s.pop.setPc (s.top + 2)) := by
  refine ⟨Nat.succ_pred_eq_of_ne_zero h, rfl, fun k hk => ?_⟩
  have hk' : k.val = s.sp.val - 1 := hk
  simp [State.top, hk']

theorem sameStack_sendFrame (s : State) : SameStack s s.sendFrame := by
  obtain ⟨-, h⟩ | ⟨-, -, h⟩ | ⟨-, -, h⟩ := sendFrame_cases s <;> rw [h] <;> exact ⟨rfl, rfl⟩

theorem sameStack_applyKey (s : State) (e : KeyEvent) : SameStack s (s.applyKey e) := by
  obtain ⟨x, -, -, h⟩ | ⟨-, h⟩ := applyKey_cases s e <;> rw [h] <;> exact ⟨rfl, rfl⟩

theorem sameStack_acceptStale (s : State) : SameStack s s.acceptStale := by
  obtain ⟨x, k, -, -, -, h⟩ | ⟨-, h⟩ := acceptStale_cases s <;> rw [h] <;> exact ⟨rfl, rfl⟩

theorem sameStack_stopByHost (s : State) : SameStack s s.stopByHost := by
  obtain ⟨-, h⟩ | ⟨-, h⟩ := stopByHost_cases s <;> rw [h] <;> exact ⟨rfl, rfl⟩

/-! ### Instructions and steps -/

theorem Effect.stack_cases {i : Instr} {s t : State} (h : Effect s i t) :
    SameStack s t ∨ ((∃ nnn, i = .call nnn) ∧ PushedPc s t) ∨ (i = .ret ∧ PoppedPc s t) := by
  cases h with
  | calls nnn hs => exact .inr (.inl ⟨⟨nnn, rfl⟩, pushedPc_push s hs _⟩)
  | returns hs => exact .inr (.inr ⟨rfl, poppedPc_pop s hs⟩)
  | draws x y n => exact .inl (sameStack_sendFrame (s.drawn x y n))
  | raises | halts | clears | goes | regs | random | index | delay | sound | waits | stores => exact .inl ⟨rfl, rfl⟩

/-- Moving the schedule on leaves PC, SP and STACK alone, so each case speaks of `s` as of the state past the event. -/
theorem StepCase.stack_cases {s t : State} (h : StepCase s t) :
    SameStack s t ∨ ((∃ nnn, s.executes (.call nnn)) ∧ PushedPc s t) ∨ (s.executes .ret ∧ PoppedPc s t) := by
  cases h with
  | executed u _ w i he hr hf hd hx =>
    have hi : s.executes i := ⟨by rw [he], hr, w, hf, hd⟩
    obtain ⟨_, rfl⟩ := sched_only he
    obtain same | ⟨⟨nnn, rfl⟩, push⟩ | ⟨rfl, pop⟩ := (exec_effect hx).stack_cases
    · exact .inl same
    · exact .inr (.inl ⟨⟨nnn, hi⟩, push⟩)
    · exact .inr (.inr ⟨hi, pop⟩)
  | keyed u e he => obtain ⟨_, rfl⟩ := sched_only he; exact .inl (sameStack_applyKey _ e)
  | accepted u he => obtain ⟨_, rfl⟩ := sched_only he; exact .inl (sameStack_acceptStale _)
  | stopped u he => obtain ⟨_, rfl⟩ := sched_only he; exact .inl (sameStack_stopByHost _)
  | idle u he | fetchFault u he | illegal u _ _ he | ticked u he | frameLost u he | logLost u he =>
    obtain ⟨_, rfl⟩ := sched_only he; exact .inl ⟨rfl, rfl⟩

/-- Settles O53, by the cases of a step and, in an executed instruction, by the shapes of its effect. -/
theorem onlyCallPushesAndOnlyRetPops : Obligations.OnlyCallPushesAndOnlyRetPops :=
  ⟨fun _ => rfl, fun _ _ h => (step_cases h).stack_cases⟩

end Sys2Proof.Machine
end

section
/-! The opcode map against the decoder (30_encoding.md R86): a row that selects a word fixes its mode, and the z or num that the
row's mask covers, so the word is the encoder's for the row's instruction; and a word that decodes lies in its instruction's row. -/

namespace Sys2Proof

/-! ### A word is the encoder's shape of its own fields -/

theorem regX_val (w : Word) : (regX w).val = w.toNat / 256 % 16 := fieldX_toNat w

theorem regY_val (w : Word) : (regY w).val = w.toNat / 16 % 16 := fieldY_toNat w

theorem wordAddr_fields (w : Word) : wordAddr (fieldMode w) (fieldAddr w) = w := by
  apply BitVec.eq_of_toNat_eq
  rw [wordAddr_toNat, fieldMode_toNat, fieldAddr_toNat]
  omega

theorem wordImm_fields (w : Word) : wordImm (fieldMode w) (regX w) (fieldNum w) = w := by
  apply BitVec.eq_of_toNat_eq
  rw [wordImm_toNat, fieldMode_toNat, regX_val, fieldNum_toNat]
  omega

theorem wordReg_fields (w : Word) : wordReg (fieldMode w) (regX w) (regY w) (fieldZ w) = w := by
  apply BitVec.eq_of_toNat_eq
  rw [wordReg_toNat, fieldMode_toNat, regX_val, regY_val, fieldZ_toNat]
  omega

/-! ### What a row's match says about the fields its mask covers -/

section Masks
variable {w : Word} {m z : Nibble} {nn : Byte}

theorem fieldMode_of_and_F000 (h : w &&& 0xF000 = wordAddr m 0) : fieldMode w = m := by
  simpa using congrArg fieldMode ((and_F000 w).symm.trans h)

theorem fieldMode_of_and_F00F (h : w &&& 0xF00F = wordReg m 0 0 z) : fieldMode w = m := by
  simpa using congrArg fieldMode ((and_F00F w).symm.trans h)

theorem fieldZ_of_and_F00F (h : w &&& 0xF00F = wordReg m 0 0 z) : fieldZ w = z := by
  simpa using congrArg fieldZ ((and_F00F w).symm.trans h)

theorem fieldMode_of_and_F0FF (h : w &&& 0xF0FF = wordImm m 0 nn) : fieldMode w = m := by
  simpa using congrArg fieldMode ((and_F0FF w).symm.trans h)

theorem fieldNum_of_and_F0FF (h : w &&& 0xF0FF = wordImm m 0 nn) : fieldNum w = nn := by
  simpa using congrArg fieldNum ((and_F0FF w).symm.trans h)

theorem and_FFFF (w : Word) : w &&& 0xFFFF = w := BitVec.and_allOnes

end Masks

/-! ### The decoder on the encoder's words -/

theorem decodeWord_encode (key : ZeroFamilyKey) (i : Instr) : decodeWord key (encode i) = .ok i := by
  cases i with
  | halt | cls | ret => cases key <;> rfl
  | jp | call | ldI | jpV0 | seImm | sneImm | ldImm | addImm | rnd | seReg | sneReg | drw => simp [encode, decodeWord]
  | ldReg | orReg | andReg | xorReg | addReg | subReg | shr | subn | shl => simp [encode, decodeWord, decodeAluFamily]
  | skp | sknp => simp [encode, decodeWord, decodeKeyFamily]
  | ldVxDT | ldVxK | ldDTVx | ldSTVx | addI | ldF | ldB | stRegs | ldRegs => simp [encode, decodeWord, decodeIoFamily]

theorem decodeWord_of_encode_eq {key : ZeroFamilyKey} {w : Word} {i : Instr} (h : encode i = w) : decodeWord key w = .ok i :=
  h ▸ decodeWord_encode key i

/-! ### What the words of a row decode to: one lemma per mask and shape of operands -/

section Words
variable {key : ZeroFamilyKey} {w : Word} {i : Instr} (m : Nibble)

/-- A row whose mask is the whole word, without operands. -/
theorem decodeWord_wholeRow (i : Instr) (h : w &&& 0xFFFF = encode i) : decodeWord key w = .ok i :=
  decodeWord_of_encode_eq (h.symm.trans (and_FFFF w))

/-- A row whose mask is the mode, with operand addr. -/
theorem decodeWord_addrRow (hi : encode i = wordAddr m (fieldAddr w)) (h : w &&& 0xF000 = wordAddr m 0) :
    decodeWord key w = .ok i := by
  obtain rfl := fieldMode_of_and_F000 h
  exact decodeWord_of_encode_eq (hi.trans (wordAddr_fields w))

/-- A row whose mask is the mode, with operands x and num. -/
theorem decodeWord_immRow (hi : encode i = wordImm m (regX w) (fieldNum w)) (h : w &&& 0xF000 = wordAddr m 0) :
    decodeWord key w = .ok i := by
  obtain rfl := fieldMode_of_and_F000 h
  exact decodeWord_of_encode_eq (hi.trans (wordImm_fields w))

/-- A row whose mask is the mode, with operands x, y and z. -/
theorem decodeWord_xyzRow (hi : encode i = wordReg m (regX w) (regY w) (fieldZ w)) (h : w &&& 0xF000 = wordAddr m 0) :
    decodeWord key w = .ok i := by
  obtain rfl := fieldMode_of_and_F000 h
  exact decodeWord_of_encode_eq (hi.trans (wordReg_fields w))

/-- A row whose mask is mode and z, with operands x and y. -/
theorem decodeWord_xyRow (z : Nibble) (hi : encode i = wordReg m (regX w) (regY w) z) (h : w &&& 0xF00F = wordReg m 0 0 z) :
    decodeWord key w = .ok i := by
  obtain rfl := fieldMode_of_and_F00F h
  obtain rfl := fieldZ_of_and_F00F h
  exact decodeWord_of_encode_eq (hi.trans (wordReg_fields w))

/-- A row whose mask is mode and num, with operand x. -/
theorem decodeWord_xRow (nn : Byte) (hi : encode i = wordImm m (regX w) nn) (h : w &&& 0xF0FF = wordImm m 0 nn) :
    decodeWord key w = .ok i := by
  obtain rfl := fieldMode_of_and_F0FF h
  obtain rfl := fieldNum_of_and_F0FF h
  exact decodeWord_of_encode_eq (hi.trans (wordImm_fields w))

end Words

/-! ### A word that decodes lies in its instruction's row -/

/-- The row of an instruction under either key: the key is the mask of the 0x0 family (R87), and no other row's. -/
def rowUnder (key : ZeroFamilyKey) : Instr → OpcodeRow
  | .halt => ⟨0x0000, zeroFamilyMask key⟩
  | .cls  => ⟨0x00E0, zeroFamilyMask key⟩
  | .ret  => ⟨0x00EE, zeroFamilyMask key⟩
  | i     => Laws.RowMatch.row i

theorem rowUnder_mem (key : ZeroFamilyKey) (i : Instr) : rowUnder key i ∈ opcodeRows key := by
  cases i <;> simp [rowUnder, Laws.RowMatch.row, opcodeRows]

section Rows
open Laws.RowMatch (of_mode of_mode_z of_mode_num)
variable {key : ZeroFamilyKey} {w : Word} {i : Instr}

/-- The key low8 reads num alone. -/
theorem matchesWord_low8 {nn : Byte} (hm : fieldMode w = 0x0) (hn : (fieldNum w).setWidth 12 = nn.setWidth 12) :
    OpcodeRow.matchesWord ⟨wordImm 0x0 0 nn, zeroFamilyMask .low8⟩ w = true := by
  refine of_mode_num hm (BitVec.eq_of_toNat_eq ?_)
  have h := congrArg BitVec.toNat hn
  simp only [BitVec.toNat_setWidth] at h
  omega

/-- The key addr12 reads all of addr, so the row's pattern is the whole word. -/
theorem matchesWord_addr12 {nnn : Addr12} (hm : fieldMode w = 0x0) (ha : fieldAddr w = nnn) :
    OpcodeRow.matchesWord ⟨wordAddr 0x0 nnn, zeroFamilyMask .addr12⟩ w = true := by
  have hw : w = wordAddr 0x0 nnn := by rw [← hm, ← ha, wordAddr_fields]
  rw [OpcodeRow.matchesWord, beq_iff_eq]
  exact (and_FFFF w).trans hw

theorem rowUnder_matches_zeroFamily (hm : fieldMode w = 0x0) (h : decodeZeroFamily key w = .ok i) :
    (rowUnder key i).matchesWord w = true := by
  cases key with
  | addr12 =>
    simp only [decodeZeroFamily] at h
    split_ifs at h with ha ha ha <;> cases h <;> exact (matchesWord_addr12 hm ha :)
  | low8 =>
    simp only [decodeZeroFamily] at h
    split_ifs at h with h0 h1 h2 <;> cases h
    · exact matchesWord_low8 (nn := 0x00) hm h0
    · exact matchesWord_low8 (nn := 0xE0) hm h1
    · exact matchesWord_low8 (nn := 0xEE) hm h2

theorem rowUnder_matches_aluFamily (hm : fieldMode w = 0x8) (h : decodeAluFamily w = .ok i) :
    (rowUnder key i).matchesWord w = true := by
  unfold decodeAluFamily at h
  split_ifs at h with hz hz hz hz hz hz hz hz hz <;> cases h <;> exact (of_mode_z hm hz :)

theorem rowUnder_matches_keyFamily (hm : fieldMode w = 0xE) (h : decodeKeyFamily w = .ok i) :
    (rowUnder key i).matchesWord w = true := by
  unfold decodeKeyFamily at h
  split_ifs at h with hn hn <;> cases h <;> exact (of_mode_num hm hn :)

theorem rowUnder_matches_ioFamily (hm : fieldMode w = 0xF) (h : decodeIoFamily w = .ok i) :
    (rowUnder key i).matchesWord w = true := by
  unfold decodeIoFamily at h
  split_ifs at h with hn hn hn hn hn hn hn hn hn <;> cases h <;> exact (of_mode_num hm hn :)

/-- The cases are numbered in the decoder's order, and the modes 5 and 9 have two each: z is 0, or the word is rejected. -/
theorem rowUnder_matches_of_decodeWord (h : decodeWord key w = .ok i) : (rowUnder key i).matchesWord w = true := by
  revert h
  fun_cases decodeWord key w <;> intro h
  case case1 hm => exact rowUnder_matches_zeroFamily hm h
  case case10 hm => exact rowUnder_matches_aluFamily hm h
  case case17 hm => exact rowUnder_matches_keyFamily hm h
  case case18 =>
    have hm : fieldMode w = 0xF := by bv_omega
    exact rowUnder_matches_ioFamily hm h
  case case7 | case12 => cases h
  case case6 hm hz | case11 hm hz => cases h; exact (of_mode_z hm hz :)
  case case2 hm | case3 hm | case4 hm | case5 hm | case8 hm | case9 hm | case13 hm | case14 hm | case15 hm | case16 hm =>
    cases h; exact (of_mode hm :)

end Rows

theorem legalWord_of_decodeWord {key : ZeroFamilyKey} {w : Word} {i : Instr} (h : decodeWord key w = .ok i) :
    legalWord key w = true :=
  List.any_eq_true.mpr ⟨rowUnder key i, rowUnder_mem key i, rowUnder_matches_of_decodeWord h⟩

/-- A word that no row selects is rejected (R89), under either key. -/
theorem decodeWord_error_of_illegal {key : ZeroFamilyKey} {w : Word} (h : legalWord key w = false) :
    ∃ r, decodeWord key w = .error r := by
  cases hd : decodeWord key w with
  | error r => exact ⟨r, rfl⟩
  | ok i => rw [legalWord_of_decodeWord hd] at h; cases h

/-- Settles O3, one row of the map after the other, in its order: the row's match makes the word the encoder's for the row's
instruction, which the decoder gives back. A word that decodes lies in a row, so one that lies in none is rejected. -/
theorem opcodeMapSelectsByMatchAndMask : Obligations.OpcodeMapSelectsByMatchAndMask := by
  intro w x y z nn nnn hx hy hz hn ha
  obtain rfl : x = regX w := Fin.ext (hx.trans (regX_val w).symm)
  obtain rfl : y = regY w := Fin.ext (hy.trans (regY_val w).symm)
  obtain rfl : z = fieldZ w := BitVec.eq_of_toNat_eq (hz.trans (fieldZ_toNat w).symm)
  obtain rfl : nn = fieldNum w := BitVec.eq_of_toNat_eq (hn.trans (fieldNum_toNat w).symm)
  obtain rfl : nnn = fieldAddr w := BitVec.eq_of_toNat_eq (ha.trans (fieldAddr_toNat w).symm)
  exact ⟨decodeWord_wholeRow .halt, decodeWord_wholeRow .cls, decodeWord_wholeRow .ret,
    decodeWord_addrRow 0x1 rfl, decodeWord_addrRow 0x2 rfl,
    decodeWord_immRow 0x3 rfl, decodeWord_immRow 0x4 rfl,
    decodeWord_xyRow 0x5 0x0 rfl,
    decodeWord_immRow 0x6 rfl, decodeWord_immRow 0x7 rfl,
    decodeWord_xyRow 0x8 0x0 rfl, decodeWord_xyRow 0x8 0x1 rfl, decodeWord_xyRow 0x8 0x2 rfl,
    decodeWord_xyRow 0x8 0x3 rfl, decodeWord_xyRow 0x8 0x4 rfl, decodeWord_xyRow 0x8 0x5 rfl,
    decodeWord_xyRow 0x8 0x6 rfl, decodeWord_xyRow 0x8 0x7 rfl, decodeWord_xyRow 0x8 0xE rfl,
    decodeWord_xyRow 0x9 0x0 rfl,
    decodeWord_addrRow 0xA rfl, decodeWord_addrRow 0xB rfl,
    decodeWord_immRow 0xC rfl, decodeWord_xyzRow 0xD rfl,
    decodeWord_xRow 0xE 0x9E rfl, decodeWord_xRow 0xE 0xA1 rfl,
    decodeWord_xRow 0xF 0x07 rfl, decodeWord_xRow 0xF 0x0A rfl, decodeWord_xRow 0xF 0x15 rfl,
    decodeWord_xRow 0xF 0x18 rfl, decodeWord_xRow 0xF 0x1E rfl, decodeWord_xRow 0xF 0x29 rfl,
    decodeWord_xRow 0xF 0x33 rfl, decodeWord_xRow 0xF 0x55 rfl, decodeWord_xRow 0xF 0x65 rfl,
    decodeWord_error_of_illegal⟩

end Sys2Proof
end

section
/-! The jump and the skips on registers and immediates (40_flow.md R103, R105 to R108): each writes PC and nothing else, and a
skip's target is chosen by comparing two bytes. -/

namespace Sys2Proof.Machine

/-! ### Writing PC alone -/

theorem onlyPc_setPc (s : State) (w : Word) : OnlyPc s (s.setPc w) := ⟨rfl, fun _ => rfl⟩

theorem onlyPc_skipIf (s : State) (c : Bool) : OnlyPc s (s.skipIf c) := onlyPc_setPc s _

/-! ### An instruction that answers a skip -/

section Skips
variable {i : Instr} {s : State}

/-- A skip on the condition `c` (10_state.md R24), where `P` says that it holds and `Q` that it fails. -/
theorem exec_skips {c : Bool} {P Q : Prop} (hx : exec i s = .next (s.skipIf c)) (hP : P → c = true) (hQ : Q → c = false) :
    ∃ t, exec i s = .next t ∧ OnlyPc s t ∧ (P → t.pc = s.pc + 4) ∧ (Q → t.pc = s.pc + 2) := by
  refine ⟨s.skipIf c, hx, onlyPc_skipIf s c, fun p => ?_, fun q => ?_⟩
  · simp [hP p]
  · simp [hQ q]

theorem exec_skips_eq {a b : Byte} (hx : exec i s = .next (s.skipIf (decide (a = b)))) :
    ∃ t, exec i s = .next t ∧ OnlyPc s t ∧
      (a.toNat = b.toNat → t.pc = s.pc + 4) ∧ (a.toNat ≠ b.toNat → t.pc = s.pc + 2) :=
  exec_skips hx (fun h => decide_eq_true (BitVec.eq_of_toNat_eq h)) (fun h => decide_eq_false (BitVec.toNat_ne_iff_ne.mp h))

theorem exec_skips_ne {a b : Byte} (hx : exec i s = .next (s.skipIf (decide (a ≠ b)))) :
    ∃ t, exec i s = .next t ∧ OnlyPc s t ∧
      (a.toNat ≠ b.toNat → t.pc = s.pc + 4) ∧ (a.toNat = b.toNat → t.pc = s.pc + 2) :=
  exec_skips hx (fun h => decide_eq_true (BitVec.toNat_ne_iff_ne.mp h))
    (fun h => decide_eq_false (not_not_intro (BitVec.eq_of_toNat_eq h)))

end Skips

/-! ### The statements -/

/-- Settles O16: the target is the 12-bit operand widened to a word, and PC is the one field written. -/
theorem jumpSetsPc : Obligations.JumpSetsPc :=
  fun nnn s => ⟨s.setPc (addrWord nnn), rfl, addrWord_toNat nnn, onlyPc_setPc s _⟩

/-- Settles O21: 3xnn answers the skip on `V[x] = nn`, 4xnn the skip on `V[x] ≠ nn`. -/
theorem immediateSkips : Obligations.ImmediateSkips :=
  fun _ _ _ => ⟨exec_skips_eq rfl, exec_skips_ne rfl⟩

/-- Settles O22: 5xy0 answers the skip on `V[x] = V[y]`, 9xy0 the skip on `V[x] ≠ V[y]`. -/
theorem registerSkips : Obligations.RegisterSkips :=
  fun _ _ _ => ⟨exec_skips_eq rfl, exec_skips_ne rfl⟩

end Sys2Proof.Machine
end

section
/-! The register immediates (41_load_add_imm.md R130, R131), by way of what holds of every instruction that writes one general
register and falls through. -/

namespace Sys2Proof.Machine

/-! ### Writing one register, then the fallthrough -/

theorem reg_setReg_advance_same (s : State) (x : Reg) (b : Byte) : (s.setReg x b).advance.reg x = b :=
  State.reg_setReg_same s x b

theorem sameRegsBut_setReg_advance (s : State) (x : Reg) (b : Byte) : SameRegsBut s (s.setReg x b).advance [x] :=
  fun _ hz => State.reg_setReg_ne s b (List.ne_of_not_mem_cons hz)

theorem onlyRegsPc_setReg_advance (s : State) (x : Reg) (b : Byte) : OnlyRegsPc s (s.setReg x b).advance :=
  ⟨rfl, fun _ => rfl⟩

/-- An instruction that answers a write of `b` to V[x] and the fallthrough (10_state.md R24); `Q` is what is said of the value. -/
theorem exec_writesReg {i : Instr} {s : State} {x : Reg} {b : Byte} (Q : Byte → Prop)
    (hx : exec i s = .next (s.setReg x b).advance) (hb : Q b) :
    ∃ t, exec i s = .next t ∧ Q (t.reg x) ∧ t.pc = s.pc + 2 ∧ SameRegsBut s t [x] ∧ OnlyRegsPc s t :=
  ⟨(s.setReg x b).advance, hx, (reg_setReg_advance_same s x b).symm ▸ hb, rfl, sameRegsBut_setReg_advance s x b,
    onlyRegsPc_setReg_advance s x b⟩

/-! ### The statement -/

/-- Settles O23: 6xnn answers the write of `nn`, 7xnn the write of the byte sum `V[x] + nn`, whose number is the sum modulo 256. -/
theorem immediateLoadAndAdd : Obligations.ImmediateLoadAndAdd :=
  fun x nn s => ⟨exec_writesReg (·.toNat = nn.toNat) rfl rfl,
    exec_writesReg (·.toNat = ((s.reg x).toNat + nn.toNat) % 256) rfl (BitVec.toNat_add (s.reg x) nn)⟩

end Sys2Proof.Machine
end

section
/-! The copy and the bitwise operations (42_alu.md R141 to R144): each writes one general register, VF only when x = 0xF. -/

namespace Sys2Proof.Machine

/-! ### A write said bit by bit -/

/-- An instruction that answers a write of `b` to V[x] and the fallthrough, with `p` the bits of `b`. -/
theorem exec_writesBits {i : Instr} {s : State} {x : Reg} {b : Byte} {p : Nat → Bool}
    (hx : exec i s = .next (s.setReg x b).advance) (hb : ∀ k, b.getLsbD k = p k) :
    ∃ t, exec i s = .next t ∧ (∀ k, (t.reg x).getLsbD k = p k) ∧ t.pc = s.pc + 2 ∧ SameRegsBut s t [x] ∧ OnlyRegsPc s t :=
  exec_writesReg (fun b => ∀ k, b.getLsbD k = p k) hx hb

/-! ### The statement -/

/-- Settles O24: each of the four answers the write of its byte to V[x] and the fallthrough, and the bits of `|||`, `&&&` and `^^^` are
the or, and, exclusive or of the operands' bits. -/
theorem copyAndLogic : Obligations.CopyAndLogic :=
  fun _ _ s => ⟨exec_writesReg (· = s.reg _) rfl rfl, exec_writesBits rfl fun _ => BitVec.getLsbD_or,
    exec_writesBits rfl fun _ => BitVec.getLsbD_and, exec_writesBits rfl fun _ => BitVec.getLsbD_xor⟩

end Sys2Proof.Machine
end

section
/-! The loads of the index register (43_index_jump_random.md R170, 46_io_timer.md R218), by way of what holds of every instruction
that writes I and falls through. -/

namespace Sys2Proof.Machine

/-! ### Writing I, then the fallthrough -/

/-- An instruction that answers a write of `w` to I and the fallthrough (10_state.md R24), where `n` is `w` as a number. -/
theorem exec_writesI {i : Instr} {s : State} {w : Word} {n : Nat} (hx : exec i s = .next (s.setI w).advance)
    (hw : w.toNat = n) :
    ∃ t, exec i s = .next t ∧ t.i.toNat = n ∧ t.pc = s.pc + 2 ∧ t = { s with i := t.i, pc := t.pc } ∧ SameMemory s t :=
  ⟨(s.setI w).advance, hx, hw, rfl, rfl, fun _ => rfl⟩

/-! ### The statement -/

/-- Settles O29: Annn answers the write of its operand widened to a word, Fx29 the write of the glyph's address, whose number is five
times the low nibble. -/
theorem indexLoads : Obligations.IndexLoads :=
  fun nnn x s => ⟨exec_writesI rfl (addrWord_toNat nnn), exec_writesI rfl (glyphAddress_toNat (s.reg x))⟩

end Sys2Proof.Machine
end

section
/-! The draw with a live receiver (44_draw.md R180 to R184): which pixels the sprite flips, when one of them is erased, and what the
frame send leaves. The loop's lemmas ask that the sprite's rows lie on the screen; a draw of no bytes has no such check, so it is a
case of its own. -/

namespace Sys2Proof.Machine

section Draw
variable {x y : Reg} {n : Nibble} {s : State} {r c : Nat}

/-! ### The sprite and the loop -/

theorem spritePixel_eq_bytesPixel :
    spritePixel s x y n r c = bytesPixel (s.reg x) (s.loadBytes s.i.toNat n.toNat) (s.reg y).toNat r c :=
  (bytesPixel_loadBytes s (s.reg x) s.i.toNat n.toNat (s.reg y).toNat r c).symm

theorem loadBytes_eq_nil_or_rows_le (h : drawInRange s x y n) :
    s.loadBytes s.i.toNat n.toNat = [] ∨ (s.reg y).toNat + (s.loadBytes s.i.toNat n.toNat).length ≤ 32 := by
  obtain ⟨-, hn | ⟨hy, -⟩⟩ := h
  · exact .inl (List.eq_nil_of_length_eq_zero (by simpa using hn))
  · exact .inr (by simpa using hy)

/-- Each pixel is flipped exactly where the sprite has one (R182). -/
theorem drawSprite_pixel (h : drawInRange s x y n) (hc : c < 64) :
    pixel (s.drawSprite x y n).1 r c = (pixel s.fb r c != spritePixel s x y n r c) := by
  rw [spritePixel_eq_bytesPixel, State.drawSprite]
  obtain hnil | hrows := loadBytes_eq_nil_or_rows_le h
  · simp [hnil, drawBytes, bytesPixel_nil]
  · exact drawBytes_pixel _ _ _ _ _ _ _ hrows hc

/-- The draw reports a collision exactly when a lit pixel lies under the sprite (R183). -/
theorem drawSprite_hit_iff (h : drawInRange s x y n) :
    (s.drawSprite x y n).2 = true ↔ ∃ r c, c < 64 ∧ pixel s.fb r c = true ∧ spritePixel s x y n r c = true := by
  simp only [spritePixel_eq_bytesPixel, State.drawSprite]
  obtain hnil | hrows := loadBytes_eq_nil_or_rows_le h
  · simp [hnil, drawBytes, bytesPixel_nil]
  · simpa using drawBytes_hit (s.reg x) _ (s.reg y).toNat s.fb false hrows

/-! ### Erased pixels -/

theorem lt_of_pixel {f : Frame} (h : pixel f r c = true) : c < 64 := by
  unfold pixel at h
  split at h
  · exact of_decide_eq_true (Bool.and_eq_true_iff.mp h).1
  · cases h

/-- A lit pixel is erased exactly when it lies under the sprite, and a lit pixel is on the screen. -/
theorem drawSprite_hit_iff_erases (h : drawInRange s x y n) :
    (s.drawSprite x y n).2 = true ↔ ∃ r c, pixel s.fb r c = true ∧ pixel (s.drawSprite x y n).1 r c = false := by
  rw [drawSprite_hit_iff h]
  refine exists₂_congr fun r c => ⟨fun ⟨hc, hlit, hspr⟩ => ⟨hlit, ?_⟩, fun ⟨hlit, hoff⟩ => ?_⟩
  · rw [drawSprite_pixel h hc, hlit, hspr]; rfl
  · have hc := lt_of_pixel hlit
    rw [drawSprite_pixel h hc, hlit] at hoff
    exact ⟨hc, hlit, by simpa using hoff⟩

/-! ### The instruction -/

/-- A draw in range passes its three checks: its operands are drawn and the frame is sent. -/
theorem exec_drw_of_inRange (h : drawInRange s x y n) : exec (.drw x y n) s = .next (s.drawn x y n).sendFrame := by
  obtain ⟨hi, hxy⟩ := h
  refine (execDrw_eq x y n s).trans ?_
  rw [if_neg (by omega), if_neg (by omega), if_neg (by omega)]

theorem sendFrame_of_live (h : s.frameRxLive = true) : s.sendFrame = s.emitFrame.advance := if_pos h

theorem reg_vf_drawn : (s.drawn x y n).reg vf = flagByte (s.drawSprite x y n).2 := State.reg_setReg_same _ vf _

theorem sameRegsBut_drawn : SameRegsBut s (s.drawn x y n) [vf] :=
  fun _ hz => State.reg_setReg_ne (s.setFb _) _ (List.ne_of_not_mem_cons hz)

end Draw

/-! ### The statement -/

/-- Settles O40: a draw in range writes FB and VF, the loop's collision is some lit pixel's erasure, and a live receiver takes the new
framebuffer. -/
theorem drawFlipsThePixelsAndReportsACollision : Obligations.DrawFlipsThePixelsAndReportsACollision := by
  intro x y n s h hlive
  have hx : exec (.drw x y n) s = .next (s.drawn x y n).emitFrame.advance :=
    (exec_drw_of_inRange h).trans (congrArg _ (sendFrame_of_live hlive))
  have hvf : ((s.drawn x y n).reg vf).toNat = if (s.drawSprite x y n).2 = true then 1 else 0 :=
    (congrArg _ reg_vf_drawn).trans (flagByte_toNat _)
  exact ⟨_, hx, fun _ _ _ hc => drawSprite_pixel h hc,
    fun he => hvf.trans (if_pos ((drawSprite_hit_iff_erases h).mpr he)),
    fun he => hvf.trans (if_neg (mt (drawSprite_hit_iff_erases h).mp he)),
    rfl, rfl, sameRegsBut_drawn, rfl, fun _ => rfl⟩

end Sys2Proof.Machine
end

section
/-! The delay timer's read and the writes of the two timers (46_io_timer.md R211, R215, R216). The read is a write of one general
register; each write touches one timer field and the fallthrough. -/

namespace Sys2Proof.Machine

/-! ### The instructions -/

theorem exec_ldVxDT (x : Reg) (s : State) : exec (.ldVxDT x) s = .next (s.setReg x s.dt).advance := rfl

theorem exec_ldDTVx (x : Reg) (s : State) : exec (.ldDTVx x) s = .next (s.setDt (s.reg x)).advance := rfl

theorem exec_ldSTVx (x : Reg) (s : State) : exec (.ldSTVx x) s = .next (s.setSt (s.reg x)).advance := rfl

/-! ### The statement -/

/-- Settles O32: Fx07 answers the write of DT to V[x], Fx15 the write of V[x] to DT, Fx18 the write of V[x] to ST, each with the
fallthrough; neither timer write touches the memory list or the configuration, so every byte reads the same. -/
theorem timerReadAndWrites : Obligations.TimerReadAndWrites := by
  refine fun x s => ⟨?read, ?delay, ?sound⟩
  case read => exact exec_writesReg (· = s.dt) (exec_ldVxDT x s) rfl
  case delay => exact ⟨_, exec_ldDTVx x s, rfl, rfl, rfl, State.readByte_congr rfl rfl⟩
  case sound => exact ⟨_, exec_ldSTVx x s, rfl, rfl, rfl, State.readByte_congr rfl rfl⟩

end Sys2Proof.Machine
end

section
/-! The encoder against the decoder (30_encoding.md R80 to R89): each undoes the other, the rows of the opcode map select disjoint
sets of words, and the key of the 0x0 family matters to that family alone. -/

namespace Sys2Proof

/-! ### Decoding what was encoded -/

/-- The bytes of a word are read back as that word, so the decoder answers for the word itself. -/
theorem decodeBytes_bytesOfWord {key : ZeroFamilyKey} {w : Word} {i : Instr} (rest : List Byte) (h : decodeWord key w = .ok i) :
    decodeBytes key (bytesOfWord w ++ rest) = .ok (i, rest) := by
  simp [decodeBytes, bytesOfWord, h]

/-- Settles O1: the two bytes give the word back, and the word of an instruction decodes to it. -/
theorem decodeOfEncodeIsTheInstruction : Obligations.DecodeOfEncodeIsTheInstruction :=
  fun key i rest => decodeBytes_bytesOfWord rest (decodeWord_encode key i)

/-! ### Encoding what was decoded -/

section EncodeOfDecode
variable {w : Word} {i : Instr}

theorem wordAddr_of_mode {m : Nibble} {nnn : Addr12} (hm : fieldMode w = m) (ha : fieldAddr w = nnn) : wordAddr m nnn = w := by
  rw [← hm, ← ha, wordAddr_fields]

theorem wordImm_of_mode {m : Nibble} {nn : Byte} (hm : fieldMode w = m) (hn : fieldNum w = nn) : wordImm m (regX w) nn = w := by
  rw [← hm, ← hn, wordImm_fields]

theorem wordReg_of_mode {m z : Nibble} (hm : fieldMode w = m) (hz : fieldZ w = z) : wordReg m (regX w) (regY w) z = w := by
  rw [← hm, ← hz, wordReg_fields]

theorem encode_of_decodeZeroFamily (hm : fieldMode w = 0x0) (h : decodeZeroFamily .addr12 w = .ok i) : encode i = w := by
  simp only [decodeZeroFamily] at h
  split_ifs at h with ha ha ha <;> cases h <;> exact wordAddr_of_mode hm ha

theorem encode_of_decodeAluFamily (hm : fieldMode w = 0x8) (h : decodeAluFamily w = .ok i) : encode i = w := by
  unfold decodeAluFamily at h
  split_ifs at h with hz hz hz hz hz hz hz hz hz <;> cases h <;> exact wordReg_of_mode hm hz

theorem encode_of_decodeKeyFamily (hm : fieldMode w = 0xE) (h : decodeKeyFamily w = .ok i) : encode i = w := by
  unfold decodeKeyFamily at h
  split_ifs at h with hn hn <;> cases h <;> exact wordImm_of_mode hm hn

theorem encode_of_decodeIoFamily (hm : fieldMode w = 0xF) (h : decodeIoFamily w = .ok i) : encode i = w := by
  unfold decodeIoFamily at h
  split_ifs at h with hn hn hn hn hn hn hn hn hn <;> cases h <;> exact wordImm_of_mode hm hn

/-- The cases are numbered in the decoder's order, as in `rowUnder_matches_of_decodeWord`. -/
theorem encode_of_decodeWord (h : decodeWord .addr12 w = .ok i) : encode i = w := by
  revert h
  fun_cases decodeWord .addr12 w <;> intro h
  case case1 hm => exact encode_of_decodeZeroFamily hm h
  case case10 hm => exact encode_of_decodeAluFamily hm h
  case case17 hm => exact encode_of_decodeKeyFamily hm h
  case case18 =>
    have hm : fieldMode w = 0xF := by bv_omega
    exact encode_of_decodeIoFamily hm h
  case case7 | case12 => cases h
  case case2 hm | case3 hm | case13 hm | case14 hm => cases h; exact wordAddr_of_mode hm rfl
  case case4 hm | case5 hm | case8 hm | case9 hm | case15 hm => cases h; exact wordImm_of_mode hm rfl
  case case6 hm hz | case11 hm hz => cases h; exact wordReg_of_mode hm hz
  case case16 hm => cases h; exact wordReg_of_mode hm rfl

end EncodeOfDecode

/-- Settles O2: under addr12 every bit of a word is in its mode or in a field that the family's row fixes or the instruction
carries. -/
theorem encodeOfDecodeIsTheWord : Obligations.EncodeOfDecodeIsTheWord := fun _ _ => encode_of_decodeWord

/-! ### The rows of the opcode map -/

/-- Two rows that select one word agree on the bits that both masks cover. -/
theorem patterns_agree_of_matchesWord {r r' : OpcodeRow} {w : Word} (h : r.matchesWord w = true) (h' : r'.matchesWord w = true) :
    r.pattern &&& r'.mask = r'.pattern &&& r.mask := by
  rw [← beq_iff_eq.mp h, ← beq_iff_eq.mp h', BitVec.and_assoc, BitVec.and_assoc, BitVec.and_comm r.mask]

/-- Of the map's 35 rows no two agree on the bits that both masks cover. -/
theorem eq_of_patterns_agree (key : ZeroFamilyKey) : ∀ j k : Fin (opcodeRows key).length,
    (opcodeRows key)[j].pattern &&& (opcodeRows key)[k].mask = (opcodeRows key)[k].pattern &&& (opcodeRows key)[j].mask →
      j = k := by
  cases key <;> decide

/-- Settles O4: rows that select one word would agree on the bits that both masks cover. -/
theorem opcodeRowsDoNotOverlap : Obligations.OpcodeRowsDoNotOverlap :=
  fun key _ j k hj hk hwj hwk =>
    congrArg Fin.val (eq_of_patterns_agree key ⟨j, hj⟩ ⟨k, hk⟩ (patterns_agree_of_matchesWord hwj hwk))

/-! ### The key of the 0x0 family -/

theorem and_F000_eq_zero_iff (w : Word) : w &&& 0xF000 = 0 ↔ fieldMode w = 0x0 :=
  ⟨fieldMode_of_and_F000 (m := 0x0), fun h => by rw [and_F000, h]; rfl⟩

theorem decodeWord_key_of_mode_ne_zero {w : Word} (h : fieldMode w ≠ 0x0) (key key' : ZeroFamilyKey) :
    decodeWord key w = decodeWord key' w := by
  simp only [decodeWord, if_neg h]

/-- With bits 11 to 8 cleared, the key addr12 reads what the key low8 reads of the word itself. -/
theorem decodeWord_low8_iff_of_mode_zero {w : Word} {i : Instr} (h : fieldMode w = 0x0) :
    decodeWord .low8 w = .ok i ↔ decodeWord .addr12 (w &&& 0xF0FF) = .ok i := by
  have ha : fieldAddr (w &&& 0xF0FF) = (fieldNum w).setWidth 12 := by
    apply BitVec.eq_of_toNat_eq
    rw [and_F0FF, h, fieldAddr_toNat, wordImm_toNat, BitVec.toNat_setWidth]
    simp
  have hm : fieldMode (w &&& 0xF0FF) = 0x0 := by rw [and_F0FF, h, fieldMode_wordImm]
  simp only [decodeWord, if_pos h, if_pos hm, decodeZeroFamily, ha]
  split_ifs <;> simp

/-- Settles O5: only the 0x0 family reads the key, and there low8 reads num alone. -/
theorem lowByteKeyIgnoresOnlyXOfTheZeroFamily : Obligations.LowByteKeyIgnoresOnlyXOfTheZeroFamily := by
  intro w i
  by_cases hm : fieldMode w = 0x0
  · rw [if_pos ((and_F000_eq_zero_iff w).mpr hm)]
    exact decodeWord_low8_iff_of_mode_zero hm
  · rw [if_neg (mt (and_F000_eq_zero_iff w).mp hm), decodeWord_key_of_mode_ne_zero hm .low8 .addr12]

/-- Settles O6: each word is the encoder's for its instruction. -/
theorem writtenOutWordsDecode : Obligations.WrittenOutWordsDecode := by
  and_intros <;> exact decodeWord_of_encode_eq (by decide)

end Sys2Proof
end

section
/-! What the shared operations and the events leave unchanged (60_exceptions.md R260 to R278, 44_draw.md R184), and the two kinds of
step: one that executes an instruction, and one that leaves I, the stack, memory, the framebuffer, FRAMES and the configuration
alone. -/

namespace Sys2Proof.Machine

/-! ### The operations -/

theorem sendFrame_frame (s : State) : s.sendFrame =
    { s with pc := s.sendFrame.pc, run := s.sendFrame.run, frames := s.sendFrame.frames, log := s.sendFrame.log } := by
  obtain ⟨-, h⟩ | ⟨-, -, h⟩ | ⟨-, -, h⟩ := sendFrame_cases s <;> rw [h] <;> rfl

theorem applyKey_frame (s : State) (e : KeyEvent) : s.applyKey e =
    { s with v := (s.applyKey e).v, pc := (s.applyKey e).pc, run := (s.applyKey e).run, keys := (s.applyKey e).keys } := by
  obtain ⟨x, -, -, h⟩ | ⟨-, h⟩ := applyKey_cases s e
  · rw [h]; rfl
  · rw [h]

theorem acceptStale_frame (s : State) :
    s.acceptStale = { s with v := s.acceptStale.v, pc := s.acceptStale.pc, run := s.acceptStale.run } := by
  obtain ⟨x, k, -, -, -, h⟩ | ⟨-, h⟩ := acceptStale_cases s
  · rw [h]; rfl
  · rw [h]

theorem stopByHost_frame (s : State) : s.stopByHost = { s with run := s.stopByHost.run } := by
  obtain ⟨-, h⟩ | ⟨-, h⟩ := stopByHost_cases s
  · rw [h]; rfl
  · rw [h]

theorem faultedFrom_raiseFault (s : State) (c : FaultCode) : FaultedFrom s c (s.raiseFault c) := rfl

/-! ### The two kinds of step -/

/-- Nothing differs but what an event of the schedule, a failed fetch or a failed decode can change. -/
def OnlyHostFields (s t : State) : Prop :=
  t = { s with v := t.v, pc := t.pc, dt := t.dt, st := t.st, keys := t.keys, run := t.run, log := t.log,
               frameRxLive := t.frameRxLive, logRxLive := t.logRxLive, sched := t.sched }

/-- Moving the schedule on changes nothing that an instruction reads, so the effect is said of `s` with another schedule. -/
theorem StepCase.executes_or_onlyHostFields {s t : State} (h : StepCase s t) :
    (∃ i rest, s.executes i ∧ Effect { s with sched := rest } i t) ∨ OnlyHostFields s t := by
  cases h with
  | executed u _ w i he hr hf hd hx =>
    have hi : s.executes i := ⟨by rw [he], hr, w, hf, hd⟩
    obtain ⟨rest, rfl⟩ := sched_only he
    exact .inl ⟨i, rest, hi, exec_effect hx⟩
  | keyed u e he => obtain ⟨_, rfl⟩ := sched_only he; right; rw [applyKey_frame]; rfl
  | accepted u he => obtain ⟨_, rfl⟩ := sched_only he; right; rw [acceptStale_frame]; rfl
  | stopped u he => obtain ⟨_, rfl⟩ := sched_only he; right; rw [stopByHost_frame]; rfl
  | idle u he | fetchFault u he | illegal u _ _ he | ticked u he | frameLost u he | logLost u he =>
    obtain ⟨_, rfl⟩ := sched_only he; exact .inr rfl

end Sys2Proof.Machine
end

section
/-! The invariant of the machine (10_state.md R25, R27; 20_memory.md R51, R64): it holds at reset and after boot, and every step
keeps it, so every run from boot meets it. -/

namespace Sys2Proof.Machine

/-! ### PC arithmetic -/

theorem toNat_add_two_le {w : Word} (h : w.toNat ≤ 0xFFE) : (w + 2).toNat ≤ 0x10FE := by bv_omega

theorem PcTarget.toNat_le {s : State} {w : Word} (h : PcTarget s w) (hpc : s.pc.toNat ≤ 0xFFE) : w.toNat ≤ 0x10FE := by
  obtain rfl | rfl | h := h
  · exact toNat_add_two_le hpc
  · bv_omega
  · exact h

/-! ### Parts of the invariant -/

section Parts
variable {s t : State}

theorem not_isWaiting_of_running (h : s.run = .running) : s.isWaiting = false := by rw [State.isWaiting, h]

theorem isWaiting_of_waiting {x : Reg} (h : s.run = .waiting x) : s.isWaiting = true := by rw [State.isWaiting, h]

theorem pc_le_of_waiting {x : Reg} (h : s.Inv) (hx : s.run = .waiting x) : s.pc.toNat ≤ 0xFFE := by
  obtain ⟨-, -, -, hwait⟩ := h
  exact hwait (isWaiting_of_waiting hx)

/-- Memory, the configuration and the stack unchanged, and a core that does not wait. -/
theorem inv_of_not_waiting (h : s.Inv) (hm : t.mem = s.mem) (hc : t.cfg = s.cfg) (hs : SameStack s t)
    (hpc : t.pc.toNat ≤ 0x10FE) (hw : t.isWaiting = false) : t.Inv := by
  obtain ⟨hmem, -, hstack, -⟩ := h
  obtain ⟨hsp, hst⟩ := hs
  exact ⟨by rw [hm, hc]; exact hmem, hpc, by rw [hsp, hst]; exact hstack, fun hw' => nomatch hw.symm.trans hw'⟩

/-- Memory, the configuration and the stack unchanged, and a PC that could be fetched from. -/
theorem inv_of_fetchable (h : s.Inv) (hm : t.mem = s.mem) (hc : t.cfg = s.cfg) (hs : SameStack s t)
    (hpc : t.pc.toNat ≤ 0xFFE) : t.Inv := by
  obtain ⟨hmem, -, hstack, -⟩ := h
  obtain ⟨hsp, hst⟩ := hs
  exact ⟨by rw [hm, hc]; exact hmem, by omega, by rw [hsp, hst]; exact hstack, fun _ => hpc⟩

/-- PC as before, and a core that waits only if it waited before. -/
theorem inv_of_same_pc (h : s.Inv) (hm : t.mem = s.mem) (hc : t.cfg = s.cfg) (hs : SameStack s t) (hpc : t.pc = s.pc)
    (hw : t.isWaiting = true → s.isWaiting = true) : t.Inv := by
  obtain ⟨hmem, hle, hstack, hwait⟩ := h
  obtain ⟨hsp, hst⟩ := hs
  exact ⟨by rw [hm, hc]; exact hmem, by rw [hpc]; exact hle, by rw [hsp, hst]; exact hstack,
    fun ht => by rw [hpc]; exact hwait (hw ht)⟩

end Parts

/-! ### Instructions -/

section Instructions
variable {s : State}

theorem inv_sendFrame (h : s.Inv) (hr : s.run = .running) (hpc : s.pc.toNat ≤ 0xFFE) : s.sendFrame.Inv := by
  obtain ⟨-, e⟩ | ⟨-, -, e⟩ | ⟨-, -, e⟩ := sendFrame_cases s <;> rw [e]
  · exact inv_of_not_waiting h rfl rfl ⟨rfl, rfl⟩ (toNat_add_two_le hpc) (not_isWaiting_of_running hr)
  · exact inv_of_fetchable h rfl rfl ⟨rfl, rfl⟩ hpc
  · exact inv_of_not_waiting h rfl rfl ⟨rfl, rfl⟩ (toNat_add_two_le hpc) (not_isWaiting_of_running hr)

/-- The pushed address is the executed call's own, which was fetched from. -/
theorem inv_call (h : s.Inv) (hr : s.run = .running) (hpc : s.pc.toNat ≤ 0xFFE) (hsp : s.sp.val < 16) (nnn : Addr12) :
    ((s.push s.pc hsp).setPc (addrWord nnn)).Inv := by
  obtain ⟨hmem, -, hstack, -⟩ := h
  obtain ⟨-, hpush⟩ := pushedPc_push s hsp (addrWord nnn)
  refine ⟨hmem, ?_, fun k hk => ?_, fun hw => nomatch (not_isWaiting_of_running hr).symm.trans hw⟩
  · have := nnn.isLt
    rw [State.setPc_pc, addrWord_toNat]
    omega
  · have hk : k.val < s.sp.val + 1 := hk
    rw [hpush k]
    split
    · exact hpc
    · exact hstack k (by omega)

theorem inv_ret (h : s.Inv) (hr : s.run = .running) (hsp : s.sp.val ≠ 0) : (s.pop.setPc (s.top + 2)).Inv := by
  obtain ⟨hmem, -, hstack, -⟩ := h
  have htop : s.top.toNat ≤ 0xFFE := hstack ⟨s.sp.val - 1, by omega⟩ (Nat.sub_one_lt hsp)
  refine ⟨hmem, toNat_add_two_le htop, fun k hk => ?_, fun hw => nomatch (not_isWaiting_of_running hr).symm.trans hw⟩
  have hk : k.val < s.sp.val - 1 := hk
  exact hstack k (by omega)

theorem inv_store (h : s.Inv) (hr : s.run = .running) (hpc : s.pc.toNat ≤ 0xFFE) {bs : List Byte} (lo : 0x50 ≤ s.i.toNat)
    (up : s.i.toNat + bs.length ≤ 4096) : (s.storeBytes s.storeAddr bs).advance.Inv := by
  obtain ⟨hmem, -, hstack, -⟩ := h
  exact ⟨Memory.wf_writeBytes bs s.mem s.i.toNat hmem lo up, toNat_add_two_le hpc, hstack,
    fun hw => nomatch (not_isWaiting_of_running hr).symm.trans hw⟩

/-- An instruction is executed by a running core, from an address that it was fetched from. -/
theorem Effect.inv {t : State} {i : Instr} (e : Effect s i t) (h : s.Inv) (hr : s.run = .running) (hpc : s.pc.toNat ≤ 0xFFE) :
    t.Inv := by
  cases e with
  | calls nnn hsp => exact inv_call h hr hpc hsp nnn
  | returns hsp => exact inv_ret h hr hsp
  | stores _ bs _ lo up => exact inv_store h hr hpc lo up
  | draws x y n => exact inv_sendFrame (s := s.drawn x y n) h hr hpc
  | goes _ w _ hw => exact inv_of_not_waiting h rfl rfl ⟨rfl, rfl⟩ (hw.toNat_le hpc) (not_isWaiting_of_running hr)
  | raises | halts | waits => exact inv_of_fetchable h rfl rfl ⟨rfl, rfl⟩ hpc
  | clears | regs | random | index | delay | sound =>
    exact inv_of_not_waiting h rfl rfl ⟨rfl, rfl⟩ (toNat_add_two_le hpc) (not_isWaiting_of_running hr)

end Instructions

/-! ### Events -/

section Events
variable {s : State}

theorem inv_resolveWait (h : s.Inv) {x : Reg} (hx : s.run = .waiting x) (k : Key) : (s.resolveWait x k).Inv :=
  inv_of_not_waiting h rfl rfl ⟨rfl, rfl⟩ (toNat_add_two_le (pc_le_of_waiting h hx)) rfl

theorem inv_applyKey (h : s.Inv) (e : KeyEvent) : (s.applyKey e).Inv := by
  obtain ⟨x, hx, -, eq⟩ | ⟨-, eq⟩ := applyKey_cases s e <;> rw [eq]
  · exact inv_resolveWait (s := { s with keys := ⟨e.bitmaskAfter, some ⟨e.index, e.pressed⟩⟩ }) h hx e.index
  · exact h

theorem inv_acceptStale (h : s.Inv) : s.acceptStale.Inv := by
  obtain ⟨x, k, -, hx, -, eq⟩ | ⟨-, eq⟩ := acceptStale_cases s <;> rw [eq]
  · exact inv_resolveWait h hx k
  · exact h

theorem inv_stopByHost (h : s.Inv) : s.stopByHost.Inv := by
  obtain ⟨-, eq⟩ | ⟨-, eq⟩ := stopByHost_cases s <;> rw [eq]
  · exact inv_of_same_pc h rfl rfl ⟨rfl, rfl⟩ rfl (fun hw => nomatch hw)
  · exact h

end Events

/-! ### Steps and runs -/

/-- The invariant does not speak of the schedule, nor of the timers and the receivers. -/
theorem StepCase.inv {s t : State} (h : StepCase s t) (hs : s.Inv) : t.Inv := by
  cases h with
  | executed u _ w i he hr hf hd hx =>
    obtain ⟨_, rfl⟩ := sched_only he
    exact (exec_effect hx).inv hs hr (pc_le_of_fetch hf)
  | fetchFault u he =>
    obtain ⟨_, rfl⟩ := sched_only he
    exact inv_of_same_pc hs rfl rfl ⟨rfl, rfl⟩ rfl (fun hw => nomatch hw)
  | illegal u w r he hr hf =>
    obtain ⟨_, rfl⟩ := sched_only he
    exact inv_of_not_waiting hs rfl rfl ⟨rfl, rfl⟩ (toNat_add_two_le (pc_le_of_fetch hf)) (not_isWaiting_of_running hr)
  | keyed u e he => obtain ⟨rest, rfl⟩ := sched_only he; exact inv_applyKey (s := { s with sched := rest }) hs e
  | accepted u he => obtain ⟨_, rfl⟩ := sched_only he; exact inv_acceptStale hs
  | stopped u he => obtain ⟨_, rfl⟩ := sched_only he; exact inv_stopByHost hs
  | idle u he | ticked u he | frameLost u he | logLost u he => obtain ⟨_, rfl⟩ := sched_only he; exact hs

/-- Settles O48: an executed instruction was fetched from a PC of at most 0xFFE, and the other cases of a step leave memory and the
stack alone. -/
theorem everyStepKeepsTheInvariant : Obligations.EveryStepKeepsTheInvariant :=
  fun _ _ hs h => (step_cases h).inv hs

/-! ### A next state -/

/-- The instructions that check an operand answer by cases of the check, and each case is a next state. -/
theorem exec_next (i : Instr) (s : State) : ∃ t, exec i s = .next t := by
  cases i with
  | ret | call | skp | sknp | ldRegs | ldB | stRegs | drw =>
    simp only [exec, execRet, execCall, execSkp, execSknp, execLdRegs, execLdB_eq, execStRegs_eq, execDrw_eq]
    split_ifs <;> exact ⟨_, rfl⟩
  | _ => exact ⟨_, rfl⟩

theorem instrStep_next (s : State) : ∃ t, instrStep s = .next t := by
  cases hf : s.fetch with
  | none => exact ⟨_, instrStep_none hf⟩
  | some w =>
    cases hd : decodeWord s.cfg.zeroFamilyKey w with
    | error r => exact ⟨_, instrStep_illegal hf hd⟩
    | ok i => rw [instrStep_exec hf hd]; exact exec_next i s

theorem coreStep_next (s : State) : ∃ t, coreStep s = .next t := by
  by_cases hr : s.run = .running
  · rw [coreStep_running hr]; exact instrStep_next s
  · exact ⟨s, coreStep_idle hr⟩

theorem step_next (s : State) : ∃ t, step s = .next t := by
  unfold step
  split
  · exact coreStep_next _
  all_goals exact ⟨_, rfl⟩

/-- Settles O47, by the next event and, on the core's turn, by the fetch, the decode and the instruction. -/
theorem everyStepAnswersANextState : Obligations.EveryStepAnswersANextState := ⟨step_next, exec_next⟩

/-! ### The configuration -/

theorem Effect.cfg_eq {s t : State} {i : Instr} (e : Effect s i t) : t.cfg = s.cfg := by
  cases e with
  | draws x y n => exact (congrArg State.cfg (sendFrame_frame (s.drawn x y n)) :)
  | _ => rfl

theorem StepCase.cfg_eq {s t : State} (h : StepCase s t) : t.cfg = s.cfg := by
  obtain ⟨i, rest, -, e⟩ | h := h.executes_or_onlyHostFields
  · exact e.cfg_eq
  · exact (congrArg State.cfg h :)

/-! ### Reset, boot and runs -/

theorem inv_resetWith (p : Params) : (State.resetWith p).Inv :=
  ⟨rfl, by simp [State.resetWith], fun k hk => absurd hk (Nat.not_lt_zero k.val), fun hw => nomatch hw⟩

/-- Settles O46: memory is empty, PC is 0x200, SP is 0 and the core runs. -/
theorem resetMeetsTheInvariant : Obligations.ResetMeetsTheInvariant := inv_resetWith

theorem inv_booted (p : Params) {rom : List Byte} (h : rom.length ≤ 3584) : (State.booted p rom).Inv := by
  obtain ⟨hmem, hpc, hstack, hwait⟩ := inv_resetWith p
  exact ⟨Memory.wf_writeBytes rom [] 0x200 hmem (by omega) (by omega), hpc, hstack, hwait⟩

theorem boot_of_fits (p : Params) {rom : List Byte} (h : rom.length ≤ 3584) : boot p (some rom) = .next (State.booted p rom) :=
  if_neg (by omega)

theorem boot_of_too_large (p : Params) {rom : List Byte} (h : rom.length > 3584) : boot p (some rom) = .fault .romTooLarge :=
  if_pos h

theorem booted_of_boot {p : Params} {rom : List Byte} {s : State} (h : boot p (some rom) = .next s) :
    rom.length ≤ 3584 ∧ s = State.booted p rom := by
  by_cases hl : rom.length ≤ 3584
  · rw [boot_of_fits p hl] at h; cases h; exact ⟨hl, rfl⟩
  · rw [boot_of_too_large p (by omega)] at h; cases h

theorem core_run_succ {s u : State} (n : Nat) (h : step s = .next u) : core.run (n + 1) s = core.run n u := by
  simp only [Host.Core.run, show core.step s = .next u from h]

/-- Runs of any length, by induction on it: a step is taken, and it keeps the invariant and the configuration. -/
theorem run_keeps_inv (n : Nat) : ∀ s : State, s.Inv → ∃ t : State, core.run n s = .next t ∧ t.Inv ∧ t.cfg = s.cfg := by
  induction n with
  | zero => exact fun s hs => ⟨s, rfl, hs, rfl⟩
  | succ n ih =>
    intro s hs
    obtain ⟨u, hu⟩ := step_next s
    obtain ⟨t, ht, hinv, hcfg⟩ := ih u ((step_cases hu).inv hs)
    exact ⟨t, (core_run_succ n hu).trans ht, hinv, hcfg.trans (step_cases hu).cfg_eq⟩

theorem readByte_glyph {s : State} (h : s.Inv) {a : Nat} (ha : a < 80) : s.readByte a = s.cfg.glyphRom[a] :=
  let ⟨hmem, _⟩ := h
  Memory.read_glyph hmem ha

/-- Settles O49: the booted state meets the invariant under any schedule, and canonical memory reads as the glyph ROM below 0x50. -/
theorem everyBootedRunKeepsTheInvariant : Obligations.EveryBootedRunKeepsTheInvariant := by
  intro p rom s sched n hb
  obtain ⟨hl, rfl⟩ := booted_of_boot hb
  obtain ⟨t, ht, hinv, hcfg⟩ := run_keeps_inv n { State.booted p rom with sched := sched } (inv_booted p hl)
  obtain rfl : t.cfg = p := hcfg
  exact ⟨t, ht, hinv, rfl, fun a ha => readByte_glyph hinv ha⟩

end Sys2Proof.Machine
end

section
/-! Halting, clearing the screen, the call and the return, and the indexed jump (40_flow.md R100 to R104; 43_index_jump_random.md
R171). -/

namespace Sys2Proof.Machine

/-! ### The call and the return, by their checks -/

section Stack
variable {s : State}

theorem exec_call_of_lt (nnn : Addr12) (h : s.sp.val < 16) :
    exec (.call nnn) s = .next ((s.push s.pc h).setPc (addrWord nnn)) := dif_pos h

theorem exec_call_of_full (nnn : Addr12) (h : ¬s.sp.val < 16) :
    exec (.call nnn) s = .next (s.raiseFault .stackOverflow) := dif_neg h

theorem exec_ret_of_ne_zero (h : s.sp.val ≠ 0) : exec .ret s = .next (s.pop.setPc (s.top + 2)) := if_neg h

theorem exec_ret_of_zero (h : s.sp.val = 0) : exec .ret s = .next (s.raiseFault .stackUnderflow) := if_pos h

end Stack

/-! ### The statements -/

/-- Settles O14: a record and RUN are written, and neither PC nor memory. -/
theorem haltLogsAndStopsTheMachine : Obligations.HaltLogsAndStopsTheMachine :=
  fun s => ⟨(s.emitLog (.haltNotice s.pc)).setRun .halted, rfl, rfl, rfl, rfl, fun _ => rfl⟩

theorem fbRow_clear (r : Nat) : fbRow (Vector.replicate 32 0) r = 0 := by
  unfold fbRow
  split
  · exact Vector.getElem_replicate _
  · rfl

theorem pixel_clear (r c : Nat) : pixel (Vector.replicate 32 0) r c = false := by
  by_cases hc : c < 64
  · rw [pixel_eq_row hc, fbRow_clear]
    exact BitVec.getLsbD_zero
  · exact Bool.eq_false_of_not_eq_true fun h => hc (lt_of_pixel h)

/-- Settles O15: the cleared framebuffer is the constant row 0, and no frame is sent. -/
theorem clsClearsEveryRow : Obligations.ClsClearsEveryRow :=
  fun s => ⟨(s.setFb (Vector.replicate 32 0)).advance, rfl, pixel_clear, fbRow_clear, rfl, rfl, fun _ => rfl⟩

/-- Settles O17: 16 bits hold the sum of a 12-bit and an 8-bit number. -/
theorem indexedJumpAddsV0WithoutReduction : Obligations.IndexedJumpAddsV0WithoutReduction :=
  fun nnn s => ⟨s.setPc (addrWord nnn + zext16 (s.reg 0)), rfl, jpV0_target nnn s, onlyPc_setPc s _⟩

/-- Settles O18, by the check of SP: the push writes PC to the entry that SP names. -/
theorem callPushesItsOwnAddress : Obligations.CallPushesItsOwnAddress := by
  refine fun nnn s => ⟨fun h => ?room, fun h => ?full⟩
  case room =>
    obtain ⟨hsp, hstack⟩ := pushedPc_push s h (addrWord nnn)
    exact ⟨_, exec_call_of_lt nnn h, addrWord_toNat nnn, hsp, (hstack ⟨s.sp.val, h⟩).trans (if_pos rfl),
      fun k hk => (hstack k).trans (if_neg hk), rfl, fun _ => rfl⟩
  case full => exact ⟨_, exec_call_of_full nnn (by omega), faultedFrom_raiseFault s _⟩

/-- Settles O19, by the check of SP: the pop lowers SP and reads the entry that it then names. -/
theorem retReturnsBehindTheCall : Obligations.RetReturnsBehindTheCall := by
  refine fun s => ⟨fun h => ?entry, fun h => ?empty⟩
  case entry =>
    obtain ⟨hsp, -, hpc⟩ := poppedPc_pop s h
    exact ⟨_, exec_ret_of_ne_zero h, hsp, hpc, rfl, fun _ => rfl⟩
  case empty => exact ⟨_, exec_ret_of_zero h, faultedFrom_raiseFault s _⟩

/-- Settles O20: the return finds the pushed PC in the entry that the call wrote. -/
theorem retAfterCallGoesOnBehindTheCall : Obligations.RetAfterCallGoesOnBehindTheCall := by
  intro nnn s h
  obtain ⟨hsp, hstack⟩ := pushedPc_push s h (addrWord nnn)
  have hne : ((s.push s.pc h).setPc (addrWord nnn)).sp.val ≠ 0 := by omega
  obtain ⟨hsp', -, hpc⟩ := poppedPc_pop _ hne
  refine ⟨_, _, exec_call_of_lt nnn h, exec_ret_of_ne_zero hne, ?_, Fin.ext (by omega), fun k hk => ?_, rfl, fun _ => rfl⟩
  · rw [hpc ⟨s.sp.val, h⟩ rfl, hstack, if_pos rfl]
  · exact (hstack k).trans (if_neg hk)

end Sys2Proof.Machine
end

section
/-! Which step writes what (10_state.md R20 to R34): memory, the framebuffer, the output streams, I, the timers, the key cell and
the receivers. An instruction's part is read off the shapes of its effect. -/

namespace Sys2Proof.Machine

/-! ### Memory -/

theorem sameMemory_of_eq {s t : State} (hm : t.mem = s.mem) (hc : t.cfg = s.cfg) : SameMemory s t := State.readByte_congr hm hc

theorem OnlyHostFields.sameMemory {s t : State} (h : OnlyHostFields s t) : SameMemory s t :=
  sameMemory_of_eq (congrArg State.mem h :) (congrArg State.cfg h :)

theorem sameMemory_sendFrame (s : State) : SameMemory s s.sendFrame :=
  sameMemory_of_eq (congrArg State.mem (sendFrame_frame s) :) (congrArg State.cfg (sendFrame_frame s) :)

theorem sameMemoryOutside_store (s : State) {bs : List Byte} {len : Nat} (h : bs.length = len) :
    SameMemoryOutside s (s.storeBytes s.storeAddr bs).advance s.storeAddr len :=
  fun a ha => readByte_storeBytes_outside s s.storeAddr a bs (h ▸ ha)

theorem Effect.memory_cases {i : Instr} {s t : State} (e : Effect s i t) :
    SameMemory s t ∨ 0x50 ≤ s.storeAddr ∧
      ((∃ x, i = .ldB x ∧ SameMemoryOutside s t s.storeAddr 3) ∨ ∃ x, i = .stRegs x ∧ SameMemoryOutside s t s.storeAddr 16) := by
  cases e with
  | stores _ bs hi lo =>
    obtain ⟨x, rfl, hlen⟩ | ⟨x, rfl, hlen⟩ := hi
    · exact .inr ⟨lo, .inl ⟨x, rfl, sameMemoryOutside_store s hlen⟩⟩
    · exact .inr ⟨lo, .inr ⟨x, rfl, sameMemoryOutside_store s hlen⟩⟩
  | draws x y n => exact .inl (sameMemory_sendFrame (s.drawn x y n))
  | _ => exact .inl fun _ => rfl

theorem SameMemoryOutside.glyphs {s t : State} {a₀ len : Nat} (h : SameMemoryOutside s t a₀ len) (lo : 0x50 ≤ a₀) (a : Nat)
    (ha : a < 0x50) : t.readByte a = s.readByte a :=
  h a (.inl (by omega))

/-- Settles O50: a step stores only by the effect of Fx33 or Fx55, from an address of at least 0x50 on. -/
theorem onlyStoresChangeMemoryAndNeverTheGlyphs : Obligations.OnlyStoresChangeMemoryAndNeverTheGlyphs := by
  intro s t h
  obtain ⟨i, rest, hi, e⟩ | host := (step_cases h).executes_or_onlyHostFields
  · obtain same | ⟨lo, ⟨x, rfl, out⟩ | ⟨x, rfl, out⟩⟩ := e.memory_cases
    · exact ⟨fun a _ => same a, .inl same⟩
    · exact ⟨out.glyphs lo, .inr (.inl ⟨x, hi, out⟩)⟩
    · exact ⟨out.glyphs lo, .inr (.inr ⟨x, hi, out⟩)⟩
  · exact ⟨fun a _ => host.sameMemory a, .inl host.sameMemory⟩

/-! ### The framebuffer and FRAMES -/

theorem Effect.fb_cases {i : Instr} {s t : State} (e : Effect s i t) : t.fb = s.fb ∨ i = .cls ∨ ∃ x y n, i = .drw x y n := by
  cases e with
  | clears => exact .inr (.inl rfl)
  | draws x y n => exact .inr (.inr ⟨x, y, n, rfl⟩)
  | _ => exact .inl rfl

theorem frames_sendFrame_cases (s : State) :
    s.sendFrame.frames = s.frames ∨ s.sendFrame.frames = s.frames ++ [s.sendFrame.fb] := by
  obtain ⟨-, h⟩ | ⟨-, -, h⟩ | ⟨-, -, h⟩ := sendFrame_cases s <;> rw [h]
  · exact .inr rfl
  · exact .inl rfl
  · exact .inl rfl

theorem Effect.frames_cases {i : Instr} {s t : State} (e : Effect s i t) :
    t.frames = s.frames ∨ (∃ x y n, i = .drw x y n) ∧ t.frames = s.frames ++ [t.fb] := by
  cases e with
  | draws x y n => exact (frames_sendFrame_cases (s.drawn x y n)).imp id fun h => ⟨⟨x, y, n, rfl⟩, h⟩
  | _ => exact .inl rfl

/-! ### LOG -/

/-- LOG is as before, or longer by one record. -/
def LogGrows (s t : State) : Prop := t.log = s.log ∨ ∃ r, t.log = s.log ++ [r]

theorem logGrows_emitLog (s : State) (r : LogRecord) : LogGrows s (s.emitLog r) := by
  unfold LogGrows
  rw [State.emitLog_log]
  split
  · exact .inr ⟨r, rfl⟩
  · exact .inl rfl

theorem logGrows_raiseFault (s : State) (c : FaultCode) : LogGrows s (s.raiseFault c) :=
  logGrows_emitLog (s.setRun (.faulted c)) (.faultReport c s.pc)

theorem logGrows_sendFrame (s : State) : LogGrows s s.sendFrame := by
  obtain ⟨-, h⟩ | ⟨-, -, h⟩ | ⟨-, -, h⟩ := sendFrame_cases s <;> rw [h]
  · exact .inl rfl
  · exact logGrows_raiseFault s _
  · exact logGrows_emitLog s (.frameSendFailed s.pc)

theorem Effect.logGrows {i : Instr} {s t : State} (e : Effect s i t) : LogGrows s t := by
  cases e with
  | raises _ c => exact logGrows_raiseFault s c
  | halts => exact logGrows_emitLog s (.haltNotice s.pc)
  | draws x y n => exact logGrows_sendFrame (s.drawn x y n)
  | _ => exact .inl rfl

theorem StepCase.logGrows {s t : State} (h : StepCase s t) : LogGrows s t := by
  cases h with
  | executed u _ w i he hr hf hd hx => obtain ⟨_, rfl⟩ := sched_only he; exact (exec_effect hx).logGrows
  | fetchFault u he => obtain ⟨rest, rfl⟩ := sched_only he; exact logGrows_raiseFault { s with sched := rest } _
  | illegal u w _ he =>
    obtain ⟨rest, rfl⟩ := sched_only he
    exact logGrows_emitLog { s with sched := rest } (.decodeFailure s.pc w)
  | keyed u e he => obtain ⟨_, rfl⟩ := sched_only he; rw [applyKey_frame]; exact .inl rfl
  | accepted u he => obtain ⟨_, rfl⟩ := sched_only he; rw [acceptStale_frame]; exact .inl rfl
  | stopped u he => obtain ⟨_, rfl⟩ := sched_only he; rw [stopByHost_frame]; exact .inl rfl
  | idle u he | ticked u he | frameLost u he | logLost u he => obtain ⟨_, rfl⟩ := sched_only he; exact .inl rfl

/-- Settles O51, by the two kinds of step for the framebuffer and FRAMES, and by the cases of a step for LOG. -/
theorem framebufferAndStreamsChangeOnlyAsStated : Obligations.FramebufferAndStreamsChangeOnlyAsStated := by
  intro s t h
  obtain ⟨i, rest, hi, e⟩ | host := (step_cases h).executes_or_onlyHostFields
  · refine ⟨?fb, ?frames, (step_cases h).logGrows⟩
    case fb =>
      obtain same | rfl | ⟨x, y, n, rfl⟩ := e.fb_cases
      · exact .inl same
      · exact .inr (.inl hi)
      · exact .inr (.inr ⟨x, y, n, hi⟩)
    case frames =>
      obtain same | ⟨⟨x, y, n, rfl⟩, sent⟩ := e.frames_cases
      · exact .inl same
      · exact .inr ⟨⟨x, y, n, hi⟩, sent⟩
  · exact ⟨.inl (congrArg State.fb host :), .inl (congrArg State.frames host :), (step_cases h).logGrows⟩

/-! ### The index register -/

theorem Effect.i_cases {i : Instr} {s t : State} (e : Effect s i t) :
    t.i = s.i ∨ (∃ nnn, i = .ldI nnn) ∨ (∃ x, i = .addI x) ∨ ∃ x, i = .ldF x := by
  cases e with
  | index _ w hi => exact .inr hi
  | draws x y n => exact .inl (congrArg State.i (sendFrame_frame (s.drawn x y n)) :)
  | _ => exact .inl rfl

/-- Settles O52: only an executed instruction writes I, and only by the effect that Annn, Fx1E and Fx29 share. -/
theorem indexRegisterHasThreeWriters : Obligations.IndexRegisterHasThreeWriters := by
  intro s t h hne
  obtain ⟨i, rest, hi, e⟩ | host := (step_cases h).executes_or_onlyHostFields
  · obtain same | ⟨nnn, rfl⟩ | ⟨x, rfl⟩ | ⟨x, rfl⟩ := e.i_cases
    · exact absurd same hne
    · exact .inl ⟨nnn, hi⟩
    · exact .inr (.inl ⟨x, hi⟩)
    · exact .inr (.inr ⟨x, hi⟩)
  · exact absurd (congrArg State.i host :) hne

/-! ### Timers, key cell and receivers -/

theorem tickTimer_cases (b : Byte) : tickTimer b = b ∨ (tickTimer b).toNat + 1 = b.toNat := by
  have h := tickTimer_toNat b
  by_cases h0 : b.toNat = 0
  · exact .inl (BitVec.eq_of_toNat_eq (by omega))
  · exact .inr (by omega)

theorem Effect.dt_cases {i : Instr} {s t : State} (e : Effect s i t) : t.dt = s.dt ∨ ∃ x, i = .ldDTVx x ∧ t.dt = s.reg x := by
  cases e with
  | delay x => exact .inr ⟨x, rfl, rfl⟩
  | draws x y n => exact .inl (congrArg State.dt (sendFrame_frame (s.drawn x y n)) :)
  | _ => exact .inl rfl

theorem Effect.st_cases {i : Instr} {s t : State} (e : Effect s i t) : t.st = s.st ∨ ∃ x, i = .ldSTVx x ∧ t.st = s.reg x := by
  cases e with
  | sound x => exact .inr ⟨x, rfl, rfl⟩
  | draws x y n => exact .inl (congrArg State.st (sendFrame_frame (s.drawn x y n)) :)
  | _ => exact .inl rfl

/-- The key cell and the receivers' liveness are as before. -/
def SameHostCells (s t : State) : Prop := t.keys = s.keys ∧ t.frameRxLive = s.frameRxLive ∧ t.logRxLive = s.logRxLive

theorem Effect.sameHostCells {i : Instr} {s t : State} (e : Effect s i t) : SameHostCells s t := by
  cases e with
  | draws x y n => rw [sendFrame_frame]; exact ⟨rfl, rfl, rfl⟩
  | _ => exact ⟨rfl, rfl, rfl⟩

/-- Settles O54, by the cases of a step: a tick, a key event and the two losses each write their own cell, an instruction writes a
timer only by its own effect, and nothing else writes any of them. -/
theorem timersKeysReceiversAndConfigurationWriters : Obligations.TimersKeysReceiversAndConfigurationWriters := by
  intro s t h
  cases step_cases h with
  | executed u _ w i he hr hf hd hx =>
    have hi : s.executes i := ⟨by rw [he], hr, w, hf, hd⟩
    obtain ⟨_, rfl⟩ := sched_only he
    obtain ⟨hkeys, hframe, hlog⟩ := (exec_effect hx).sameHostCells
    refine ⟨?dt, ?st, .inl hkeys, (exec_effect hx).cfg_eq, .inl hframe, .inl hlog⟩
    case dt =>
      obtain same | ⟨x, rfl, hv⟩ := (exec_effect hx).dt_cases
      · exact .inl same
      · exact .inr (.inr ⟨x, hi, hv⟩)
    case st =>
      obtain same | ⟨x, rfl, hv⟩ := (exec_effect hx).st_cases
      · exact .inl same
      · exact .inr (.inr ⟨x, hi, hv⟩)
  | ticked u he =>
    have hev : s.nextEvent.1 = .tick := congrArg Prod.fst he
    obtain ⟨_, rfl⟩ := sched_only he
    exact ⟨(tickTimer_cases s.dt).imp id fun h => .inl ⟨hev, h⟩, (tickTimer_cases s.st).imp id fun h => .inl ⟨hev, h⟩,
      .inl rfl, rfl, .inl rfl, .inl rfl⟩
  | keyed u e he =>
    have hev : s.nextEvent.1 = .key e := congrArg Prod.fst he
    obtain ⟨_, rfl⟩ := sched_only he
    rw [applyKey_frame]
    exact ⟨.inl rfl, .inl rfl, .inr ⟨e, hev⟩, rfl, .inl rfl, .inl rfl⟩
  | frameLost u he =>
    have hev : s.nextEvent.1 = .frameRxLost := congrArg Prod.fst he
    obtain ⟨_, rfl⟩ := sched_only he
    exact ⟨.inl rfl, .inl rfl, .inl rfl, rfl, .inr ⟨hev, rfl⟩, .inl rfl⟩
  | logLost u he =>
    have hev : s.nextEvent.1 = .logRxLost := congrArg Prod.fst he
    obtain ⟨_, rfl⟩ := sched_only he
    exact ⟨.inl rfl, .inl rfl, .inl rfl, rfl, .inl rfl, .inr ⟨hev, rfl⟩⟩
  | accepted u he =>
    obtain ⟨_, rfl⟩ := sched_only he
    rw [acceptStale_frame]
    exact ⟨.inl rfl, .inl rfl, .inl rfl, rfl, .inl rfl, .inl rfl⟩
  | stopped u he =>
    obtain ⟨_, rfl⟩ := sched_only he
    rw [stopByHost_frame]
    exact ⟨.inl rfl, .inl rfl, .inl rfl, rfl, .inl rfl, .inl rfl⟩
  | idle u he | fetchFault u he | illegal u _ _ he =>
    obtain ⟨_, rfl⟩ := sched_only he
    exact ⟨.inl rfl, .inl rfl, .inl rfl, rfl, .inl rfl, .inl rfl⟩

end Sys2Proof.Machine
end

section
/-! RUN and the faults (10_state.md R32; 60_exceptions.md R240 to R243, R277 to R281): which step changes RUN, what an ended run
still lets change, and when and how a fault is raised. -/

namespace Sys2Proof.Machine

/-! ### RUN as the checks see it -/

section RunState
variable {s : State}

theorem not_ended_of_running (h : s.run = .running) : s.ended = false := by rw [State.ended, h]

theorem not_ended_of_waiting {x : Reg} (h : s.run = .waiting x) : s.ended = false := by rw [State.ended, h]

theorem ended_of_faulted {c : FaultCode} (h : s.run = .faulted c) : s.ended = true := by rw [State.ended, h]

theorem isFaulted_of_faulted {c : FaultCode} (h : s.run = .faulted c) : s.isFaulted = true := by rw [State.isFaulted, h]

theorem run_ne_faulted_of_not_ended (h : s.ended = false) (c : FaultCode) : s.run ≠ .faulted c :=
  fun hr => nomatch (ended_of_faulted hr).symm.trans h

theorem run_ne_faulted_of_not_isFaulted (h : s.isFaulted = false) (c : FaultCode) : s.run ≠ .faulted c :=
  fun hr => nomatch (isFaulted_of_faulted hr).symm.trans h

theorem run_ne_running_of_ended (h : s.ended = true) : s.run ≠ .running :=
  fun hr => nomatch (not_ended_of_running hr).symm.trans h

theorem run_ne_waiting_of_ended (h : s.ended = true) (x : Reg) : s.run ≠ .waiting x :=
  fun hx => nomatch (not_ended_of_waiting hx).symm.trans h

theorem not_isWaiting_of_ended (h : s.ended = true) : s.isWaiting = false := by
  unfold State.isWaiting
  split
  · next x hx => exact absurd hx (run_ne_waiting_of_ended h x)
  · rfl

end RunState

/-! ### Who changes RUN -/

/-- The core's own turn has ended or suspended the run: by 0000, by Fx0A or by a fault (60_exceptions.md R240). -/
def TurnEndsRun (s t : State) : Prop :=
  (t.run = .halted ∧ s.executes .halt) ∨ (∃ x, t.run = .waiting x ∧ s.executes (.ldVxK x)) ∨
    ∃ code, t.run = .faulted code ∧ s.nextEvent.1 = .core

/-- The next event is a press that ends a key wait (46_io_timer.md R213, R214). -/
def PressIsNext (s : State) : Prop :=
  (∃ e, s.nextEvent.1 = .key e ∧ e.pressed = true) ∨ (s.nextEvent.1 = .acceptStalePress ∧ s.cfg.keywaitStale = .mayAccept)

theorem run_sendFrame_cases (s : State) :
    s.sendFrame.run = s.run ∨ s.sendFrame = s.raiseFault .frameChannelClosed := by
  obtain ⟨-, h⟩ | ⟨-, -, h⟩ | ⟨-, -, h⟩ := sendFrame_cases s
  · exact .inl (h ▸ rfl)
  · exact .inr h
  · exact .inl (h ▸ rfl)

theorem Effect.run_cases {i : Instr} {s t : State} (e : Effect s i t) :
    t.run = s.run ∨ (t.run = .halted ∧ i = .halt) ∨ (∃ x, t.run = .waiting x ∧ i = .ldVxK x) ∨ ∃ code, t.run = .faulted code := by
  cases e with
  | halts => exact .inr (.inl ⟨rfl, rfl⟩)
  | waits x => exact .inr (.inr (.inl ⟨x, rfl, rfl⟩))
  | raises _ c => exact .inr (.inr (.inr ⟨c, rfl⟩))
  | draws x y n =>
    exact (run_sendFrame_cases (s.drawn x y n)).imp id fun h => .inr (.inr ⟨.frameChannelClosed, congrArg State.run h⟩)
  | _ => exact .inl rfl

theorem StepCase.run_cases {s t : State} (h : StepCase s t) :
    t.run = s.run ∨ (s.run = .running ∧ TurnEndsRun s t) ∨ (s.isWaiting = true ∧ t.run = .running ∧ PressIsNext s) ∨
      (s.ended = false ∧ t.run = .stopped ∧ s.nextEvent.1 = .hostStop) := by
  cases h with
  | fetchFault u he hr =>
    exact .inr (.inl ⟨hr, .inr (.inr ⟨_, rfl, congrArg Prod.fst he⟩)⟩)
  | executed u _ w i he hr hf hd hx =>
    have hev : s.nextEvent.1 = .core := congrArg Prod.fst he
    have hi : s.executes i := ⟨hev, hr, w, hf, hd⟩
    obtain ⟨_, rfl⟩ := sched_only he
    obtain same | ⟨ht, rfl⟩ | ⟨x, ht, rfl⟩ | ⟨code, ht⟩ := (exec_effect hx).run_cases
    · exact .inl same
    · exact .inr (.inl ⟨hr, .inl ⟨ht, hi⟩⟩)
    · exact .inr (.inl ⟨hr, .inr (.inl ⟨x, ht, hi⟩)⟩)
    · exact .inr (.inl ⟨hr, .inr (.inr ⟨code, ht, hev⟩)⟩)
  | keyed u e he =>
    have hev : s.nextEvent.1 = .key e := congrArg Prod.fst he
    obtain ⟨rest, rfl⟩ := sched_only he
    obtain ⟨x, hx, hp, h⟩ | ⟨-, h⟩ := applyKey_cases { s with sched := rest } e <;> rw [h]
    · exact .inr (.inr (.inl ⟨isWaiting_of_waiting (s := s) hx, rfl, .inl ⟨e, hev, hp⟩⟩))
    · exact .inl rfl
  | accepted u he =>
    have hev : s.nextEvent.1 = .acceptStalePress := congrArg Prod.fst he
    obtain ⟨rest, rfl⟩ := sched_only he
    obtain ⟨x, k, hc, hx, -, h⟩ | ⟨-, h⟩ := acceptStale_cases { s with sched := rest } <;> rw [h]
    · exact .inr (.inr (.inl ⟨isWaiting_of_waiting (s := s) hx, rfl, .inr ⟨hev, hc⟩⟩))
    · exact .inl rfl
  | stopped u he =>
    have hev : s.nextEvent.1 = .hostStop := congrArg Prod.fst he
    obtain ⟨rest, rfl⟩ := sched_only he
    obtain ⟨hn, h⟩ | ⟨-, h⟩ := stopByHost_cases { s with sched := rest } <;> rw [h]
    · exact .inr (.inr (.inr ⟨hn, rfl, hev⟩))
    · exact .inl rfl
  | idle u he | illegal u _ _ he | ticked u he | frameLost u he | logLost u he => obtain ⟨_, rfl⟩ := sched_only he; exact .inl rfl

/-- Settles O55: a step that changes RUN is the core's turn of a running core, a press for a waiting one, or the host's stop of a
run that has not ended. -/
theorem runChangesOnlyAsStated : Obligations.RunChangesOnlyAsStated := by
  intro s t h
  refine ⟨fun hr => ?running, fun x hx => ?waiting, fun he => ?ended⟩
  case running =>
    obtain same | ⟨-, halts | waits | faults⟩ | ⟨hw, -⟩ | ⟨-, stop⟩ := (step_cases h).run_cases
    · exact .inl (same.trans hr)
    · exact .inr (.inl halts)
    · exact .inr (.inr (.inl waits))
    · exact .inr (.inr (.inr (.inl faults)))
    · exact nomatch (not_isWaiting_of_running hr).symm.trans hw
    · exact .inr (.inr (.inr (.inr stop)))
  case waiting =>
    obtain same | ⟨hr, -⟩ | ⟨-, ht, press | stale⟩ | ⟨-, stop⟩ := (step_cases h).run_cases
    · exact .inl (same.trans hx)
    · exact nomatch hx.symm.trans hr
    · exact .inr (.inl ⟨ht, press⟩)
    · exact .inr (.inr (.inl ⟨ht, stale⟩))
    · exact .inr (.inr (.inr stop))
  case ended =>
    obtain same | ⟨hr, -⟩ | ⟨hw, -⟩ | ⟨hn, -⟩ := (step_cases h).run_cases
    · exact same
    · exact absurd hr (run_ne_running_of_ended he)
    · exact nomatch (not_isWaiting_of_ended he).symm.trans hw
    · exact nomatch he.symm.trans hn

/-! ### After the end of a run -/

/-- Settles O56: the core has no turn, a press ends no wait, the host stops nothing, and the other events write their own cells. -/
theorem anEndedRunIsFrozen : Obligations.AnEndedRunIsFrozen := by
  intro s t hend h
  have hw := run_ne_waiting_of_ended hend
  cases step_cases h with
  | fetchFault _ _ hr | illegal _ _ _ _ hr | executed _ _ _ _ _ hr => exact absurd hr (run_ne_running_of_ended hend)
  | keyed u e he =>
    obtain ⟨rest, rfl⟩ := sched_only he
    obtain ⟨x, hx, -⟩ | ⟨-, h⟩ := applyKey_cases { s with sched := rest } e
    · exact absurd hx (hw x)
    · rw [h]; exact ⟨rfl, fun _ => rfl⟩
  | accepted u he =>
    obtain ⟨rest, rfl⟩ := sched_only he
    obtain ⟨x, -, -, hx, -⟩ | ⟨-, h⟩ := acceptStale_cases { s with sched := rest }
    · exact absurd hx (hw x)
    · rw [h]; exact ⟨rfl, fun _ => rfl⟩
  | stopped u he =>
    obtain ⟨rest, rfl⟩ := sched_only he
    obtain ⟨hn, -⟩ | ⟨-, h⟩ := stopByHost_cases { s with sched := rest }
    · exact nomatch hend.symm.trans hn
    · rw [h]; exact ⟨rfl, fun _ => rfl⟩
  | idle u he | ticked u he | frameLost u he | logLost u he => obtain ⟨_, rfl⟩ := sched_only he; exact ⟨rfl, fun _ => rfl⟩

/-! ### Faults are precise -/

/-- A fault is raised at the state before the instruction or, for a frame that finds no receiver, after the draw's writes. -/
def RaisedFrom (s : State) (c : FaultCode) (t : State) : Prop :=
  t = s.raiseFault c ∨ c = .frameChannelClosed ∧ ∃ x y n, t = (s.drawn x y n).raiseFault c

theorem Effect.raisedFrom {i : Instr} {s t : State} {c : FaultCode} (e : Effect s i t) (hs : s.ended = false)
    (ht : t.run = .faulted c) : RaisedFrom s c t := by
  cases e with
  | raises _ c' => obtain rfl : c' = c := RunState.faulted.inj ht; exact .inl rfl
  | halts | waits => cases ht
  | draws x y n =>
    obtain same | h := run_sendFrame_cases (s.drawn x y n)
    · exact absurd (same.symm.trans ht) (run_ne_faulted_of_not_ended hs c)
    · rw [h] at ht
      obtain rfl : .frameChannelClosed = c := RunState.faulted.inj ht
      exact .inr ⟨rfl, x, y, n, h⟩
  | _ => exact absurd ht (run_ne_faulted_of_not_ended hs c)

theorem StepCase.raisedFrom {s t : State} {c : FaultCode} (h : StepCase s t) (hs : s.ended = false) (ht : t.run = .faulted c) :
    ∃ rest, RaisedFrom { s with sched := rest } c t := by
  have hne := run_ne_faulted_of_not_ended hs c
  cases h with
  | fetchFault u he =>
    obtain ⟨rest, rfl⟩ := sched_only he
    obtain rfl : .fetchOutOfRange = c := RunState.faulted.inj ht
    exact ⟨rest, .inl rfl⟩
  | executed u _ w i he hr hf hd hx =>
    obtain ⟨rest, rfl⟩ := sched_only he
    exact ⟨rest, (exec_effect hx).raisedFrom hs ht⟩
  | keyed u e he =>
    obtain ⟨rest, rfl⟩ := sched_only he
    obtain ⟨x, -, -, h⟩ | ⟨-, h⟩ := applyKey_cases { s with sched := rest } e <;> rw [h] at ht
    · cases ht
    · exact absurd ht hne
  | accepted u he =>
    obtain ⟨rest, rfl⟩ := sched_only he
    obtain ⟨x, k, -, -, -, h⟩ | ⟨-, h⟩ := acceptStale_cases { s with sched := rest } <;> rw [h] at ht
    · cases ht
    · exact absurd ht hne
  | stopped u he =>
    obtain ⟨rest, rfl⟩ := sched_only he
    obtain ⟨-, h⟩ | ⟨-, h⟩ := stopByHost_cases { s with sched := rest } <;> rw [h] at ht
    · cases ht
    · exact absurd ht hne
  | idle u he | illegal u _ _ he | ticked u he | frameLost u he | logLost u he =>
    obtain ⟨_, rfl⟩ := sched_only he; exact absurd ht hne

/-- Settles O57: raising a fault writes RUN and LOG alone, and only FrameChannelClosed is raised after other writes. -/
theorem faultsArePrecise : Obligations.FaultsArePrecise := by
  intro s t code h hs ht
  obtain ⟨rest, rfl | ⟨rfl, x, y, n, rfl⟩⟩ := (step_cases h).raisedFrom hs ht
  · exact ⟨rfl, rfl, fun _ => ⟨rfl, fun _ => rfl⟩⟩
  · exact ⟨rfl, rfl, fun hc => absurd rfl hc⟩

/-! ### The table of fault codes -/

/-- A check that answers a fault where `c` holds: the code is that fault's, or the check was passed. -/
theorem fault_or_passed {s t : State} {f code : FaultCode} {c : Prop} [Decidable c] {o : StepOutcome}
    (hx : (if c then .next (s.raiseFault f) else o) = .next t) (ht : t.run = .faulted code) : (f = code ∧ c) ∨ o = .next t := by
  split at hx
  · cases hx; exact .inl ⟨RunState.faulted.inj ht, ‹c›⟩
  · exact .inr hx

/-- Settles O58, by the checks of the instructions that can fault; every other instruction leaves RUN or writes no fault. -/
theorem faultCodesAreRaisedOnlyAsTabled : Obligations.FaultCodesAreRaisedOnlyAsTabled := by
  intro i s t code hs hx ht
  have hne := run_ne_faulted_of_not_isFaulted hs code
  cases i with
  | halt | ldVxK => cases hx; cases ht
  | ret =>
    obtain ⟨rfl, hsp⟩ | hx := fault_or_passed hx ht
    · exact ⟨rfl, hsp⟩
    · cases hx; exact absurd ht hne
  | call nnn =>
    by_cases hsp : s.sp.val < 16
    · rw [exec_call_of_lt nnn hsp] at hx; cases hx; exact absurd ht hne
    · rw [exec_call_of_full nnn hsp] at hx; cases hx
      obtain rfl : .stackOverflow = code := RunState.faulted.inj ht
      exact ⟨⟨nnn, rfl⟩, by omega⟩
  | skp x =>
    obtain ⟨rfl, hk⟩ | hx := fault_or_passed hx ht
    · exact ⟨x, .inl rfl, of_decide_eq_true hk⟩
    · cases hx; exact absurd ht hne
  | sknp x =>
    obtain ⟨rfl, hk⟩ | hx := fault_or_passed hx ht
    · exact ⟨x, .inr rfl, of_decide_eq_true hk⟩
    · cases hx; exact absurd ht hne
  | ldRegs x =>
    obtain ⟨rfl, hi⟩ | hx := fault_or_passed hx ht
    · exact .inr ⟨x, rfl, of_decide_eq_true hi⟩
    · cases hx; exact absurd ht hne
  | ldB x =>
    obtain ⟨rfl, hi⟩ | hx := fault_or_passed ((execLdB_eq x s).symm.trans hx) ht
    · exact .inl ⟨x, rfl, hi⟩
    obtain ⟨rfl, hg⟩ | hx := fault_or_passed hx ht
    · exact ⟨.inl ⟨x, rfl⟩, hg⟩
    · cases hx; exact absurd ht hne
  | stRegs x =>
    obtain ⟨rfl, hi⟩ | hx := fault_or_passed ((execStRegs_eq x s).symm.trans hx) ht
    · exact .inr ⟨x, rfl, hi⟩
    obtain ⟨rfl, hg⟩ | hx := fault_or_passed hx ht
    · exact ⟨.inr ⟨x, rfl⟩, hg⟩
    · cases hx; exact absurd ht hne
  | drw x y n =>
    obtain ⟨rfl, hi⟩ | hx := fault_or_passed ((execDrw_eq x y n s).symm.trans hx) ht
    · exact .inl ⟨x, y, n, rfl, hi⟩
    obtain ⟨rfl, hrow⟩ | hx := fault_or_passed hx ht
    · exact ⟨x, y, n, rfl, hrow⟩
    obtain ⟨rfl, hcol⟩ | hx := fault_or_passed hx ht
    · exact ⟨x, y, n, rfl, hcol⟩
    cases hx
    obtain ⟨-, h⟩ | ⟨hrx, hfail, h⟩ | ⟨-, -, h⟩ := sendFrame_cases (s.drawn x y n) <;> rw [h] at ht
    · exact absurd ht hne
    · obtain rfl : .frameChannelClosed = code := RunState.faulted.inj ht
      exact ⟨⟨x, y, n, rfl⟩, hrx, hfail⟩
    · exact absurd ht hne
  | _ => cases hx; exact absurd ht hne

end Sys2Proof.Machine
end

section
/-! One step, by its event: the core's turn (30_encoding.md R84; 20_memory.md R60; 60_exceptions.md R244) and each event of the
schedule (60_exceptions.md R260, R271, R275, R277; 46_io_timer.md R214). -/

namespace Sys2Proof.Machine

section Turns
variable {s u : State} {rest : List Event}

/-! ### The core's turn -/

theorem step_of_not_running (he : s.nextEvent = (.core, u)) (hr : s.run ≠ .running) : step s = .next u := by
  obtain ⟨rest, rfl⟩ := sched_only he
  exact (step_core he).trans (coreStep_idle hr)

theorem step_of_running (he : s.nextEvent = (.core, u)) (hr : s.run = .running) : step s = instrStep u := by
  obtain ⟨rest, rfl⟩ := sched_only he
  exact (step_core he).trans (coreStep_running hr)

theorem step_of_fetch_none (he : s.nextEvent = (.core, u)) (hr : s.run = .running) (hf : s.fetch = none) :
    step s = .next (u.raiseFault .fetchOutOfRange) := by
  rw [step_of_running he hr]
  obtain ⟨rest, rfl⟩ := sched_only he
  exact instrStep_none hf

theorem step_of_illegal {w : Word} {r : Reject} (he : s.nextEvent = (.core, u)) (hr : s.run = .running) (hf : s.fetch = some w)
    (hd : decodeWord s.cfg.zeroFamilyKey w = .error r) : step s = .next (u.decodeFailure w) := by
  rw [step_of_running he hr]
  obtain ⟨rest, rfl⟩ := sched_only he
  exact instrStep_illegal hf hd

theorem step_of_exec {w : Word} {i : Instr} (he : s.nextEvent = (.core, u)) (hr : s.run = .running) (hf : s.fetch = some w)
    (hd : decodeWord s.cfg.zeroFamilyKey w = .ok i) : step s = exec i u := by
  rw [step_of_running he hr]
  obtain ⟨rest, rfl⟩ := sched_only he
  exact instrStep_exec hf hd

/-- Settles O7: neither the fetch nor the decode reads the schedule. -/
theorem stepRunsTheDecodedInstruction : Obligations.StepRunsTheDecodedInstruction := fun _ _ h =>
  have he := nextEvent_of_coreTurn h
  ⟨step_of_not_running he, step_of_fetch_none he, fun _ _ => step_of_illegal he, fun _ _ => step_of_exec he⟩

/-- Settles O8: below 0xFFF both bytes are in range and make one word; from there on there is no fetch. -/
theorem fetchIsBigEndianOrFaults : Obligations.FetchIsBigEndianOrFaults := by
  refine fun s => ⟨fun hlt => ⟨_, fetch_some hlt, wordOfBytes_toNat _ _⟩, fun hge rest h hr => ?_⟩
  exact ⟨_, step_of_fetch_none (nextEvent_of_coreTurn h) hr (fetch_none hge), faultedFrom_raiseFault _ _⟩

/-- Settles O9: no row selects the word, so it does not decode, and the step is the decode failure. -/
theorem illegalWordIsLoggedAndPassedOver : Obligations.IllegalWordIsLoggedAndPassedOver := by
  intro s rest w h hr hf hw
  obtain ⟨r, hd⟩ := decodeWord_error_of_illegal hw
  exact ⟨_, step_of_illegal (nextEvent_of_coreTurn h) hr hf hd, rfl, hr, rfl, rfl, fun _ => rfl⟩

/-! ### The events of the schedule -/

theorem step_tick (h : s.sched = .tick :: rest) : step s = .next ({ s with sched := rest } : State).tick := by
  rw [step, nextEvent_cons h]

theorem step_key {e : KeyEvent} (h : s.sched = .key e :: rest) :
    step s = .next (({ s with sched := rest } : State).applyKey e) := by
  rw [step, nextEvent_cons h]

theorem step_acceptStalePress (h : s.sched = .acceptStalePress :: rest) :
    step s = .next ({ s with sched := rest } : State).acceptStale := by
  rw [step, nextEvent_cons h]

theorem step_hostStop (h : s.sched = .hostStop :: rest) : step s = .next ({ s with sched := rest } : State).stopByHost := by
  rw [step, nextEvent_cons h]

theorem step_frameRxLost (h : s.sched = .frameRxLost :: rest) : step s = .next ({ s with sched := rest } : State).loseFrameRx := by
  rw [step, nextEvent_cons h]

theorem step_logRxLost (h : s.sched = .logRxLost :: rest) : step s = .next ({ s with sched := rest } : State).loseLogRx := by
  rw [step, nextEvent_cons h]

end Turns

/-- Settles O10: the tick applies `tickTimer` to DT and to ST, and writes nothing else. -/
theorem tickLowersBothTimers : Obligations.TickLowersBothTimers := fun s _ h =>
  ⟨_, step_tick h, tickTimer_toNat s.dt, tickTimer_toNat s.st, rfl, fun _ => rfl⟩

/-! ### The end of a key wait -/

/-- What the end of a wait by key k leaves in V[x]. -/
theorem toNat_reg_resolveWait (s : State) (x : Reg) (k : Key) : ((s.resolveWait x k).reg x).toNat = k.val := by
  have hk : (BitVec.ofNat 8 k.val).toNat = k.val := by rw [BitVec.toNat_ofNat]; omega
  exact (congrArg BitVec.toNat (State.reg_setReg_same s x _)).trans hk

theorem sameRegsBut_resolveWait (s : State) (x : Reg) (k : Key) : SameRegsBut s (s.resolveWait x k) [x] :=
  fun _ hz => State.reg_setReg_ne s _ (List.ne_of_not_mem_cons hz)

/-- Settles O11, by whether the event ends a wait; the two conditions exclude each other. -/
theorem keyEventReplacesTheCellAndAPressEndsAWait : Obligations.KeyEventReplacesTheCellAndAPressEndsAWait := by
  intro s e rest h
  refine ⟨_, step_key h, ?_⟩
  obtain ⟨x, hx, hp, eq⟩ | ⟨hno, eq⟩ := applyKey_cases { s with sched := rest } e <;> rw [eq]
  · refine ⟨rfl, fun _ => rfl, fun x' hx' _ => ?_, fun hno => ?_⟩
    · obtain rfl : x = x' := RunState.waiting.inj (hx.symm.trans hx')
      exact ⟨toNat_reg_resolveWait _ x _, sameRegsBut_resolveWait _ x _, rfl, rfl, rfl⟩
    · obtain hno | hno := hno
      · exact nomatch hp.symm.trans hno
      · exact nomatch (isWaiting_of_waiting hx).symm.trans hno
  · refine ⟨rfl, fun _ => rfl, fun x hx hp => ?_, fun _ => rfl⟩
    obtain hno | hno := hno
    · exact nomatch (isWaiting_of_waiting hx).symm.trans hno
    · exact nomatch hp.symm.trans hno

/-- Settles O12, by whether the stale press is taken up; the two conditions exclude each other. -/
theorem stalePressEndsAWaitOnlyWhenAllowed : Obligations.StalePressEndsAWaitOnlyWhenAllowed := by
  intro s rest h
  refine ⟨_, step_acceptStalePress h, ?_⟩
  obtain ⟨x, k, hc, hx, hk, eq⟩ | ⟨hno, eq⟩ := acceptStale_cases { s with sched := rest } <;> rw [eq]
  · refine ⟨fun _ => rfl, fun x' k' hx' hk' _ => ?_, fun hno => ?_⟩
    · obtain rfl : x = x' := RunState.waiting.inj (hx.symm.trans hx')
      obtain rfl : k = k' := congrArg KeyTransition.index (Option.some.inj (hk.symm.trans hk'))
      exact ⟨toNat_reg_resolveWait _ x k, sameRegsBut_resolveWait _ x k, rfl, rfl, rfl⟩
    · obtain hno | hno | hno := hno
      · exact nomatch (isWaiting_of_waiting hx).symm.trans hno
      · exact absurd hk (hno k)
      · exact nomatch hc.symm.trans hno
  · refine ⟨fun _ => rfl, fun x k hx hk hc => ?_, fun _ => rfl⟩
    obtain hno | hno | hno := hno
    · exact nomatch (isWaiting_of_waiting hx).symm.trans hno
    · exact absurd hk (hno k)
    · exact nomatch hc.symm.trans hno

/-! ### The host -/

/-- Settles O13: the host's stop goes by whether the run has ended, and a loss writes its own field. -/
theorem hostStopAndReceiverLossChangeOneFieldEach : Obligations.HostStopAndReceiverLossChangeOneFieldEach := by
  refine fun s rest => ⟨fun h => ⟨_, step_hostStop h, ?_⟩, step_frameRxLost, step_logRxLost⟩
  obtain ⟨hend, eq⟩ | ⟨hend, eq⟩ := stopByHost_cases { s with sched := rest } <;> rw [eq]
  · refine ⟨rfl, fun _ => rfl, fun h => ?_⟩
    exact nomatch hend.symm.trans h
  · refine ⟨rfl, fun h => ?_, fun _ => rfl⟩
    exact nomatch hend.symm.trans h

end Sys2Proof.Machine
end

section
/-! What nothing reads (10_state.md R28, R34; decision D27; 42_alu.md R151): a step makes the same change whatever ST, FRAMES and
LOG hold, and an instruction the same whatever SHIFT_SOURCE is, but for the shifts of two registers. Both runs of an instruction
check the same conditions, so they answer from the same arm. -/

namespace Sys2Proof.Machine

/-! ### The frame send without a receiver -/

theorem sendFrame_of_lost_fault {s : State} (h : s.frameRxLive = false) (hc : s.cfg.onFrameSendFail = .fault) :
    s.sendFrame = s.raiseFault .frameChannelClosed := by
  simp only [State.sendFrame, h, hc]; rfl

theorem sendFrame_of_lost_continue {s : State} (h : s.frameRxLive = false) (hc : s.cfg.onFrameSendFail = .logAndContinue) :
    s.sendFrame = (s.emitLog (.frameSendFailed s.pc)).advance := by
  simp only [State.sendFrame, h, hc]; rfl

/-! ### ST, FRAMES and LOG exchanged -/

/-- The state with ST, FRAMES and LOG exchanged for others. -/
def State.exchanged (s : State) (st : Byte) (frames : List Frame) (log : List LogRecord) : State :=
  { s with st := st, frames := frames, log := log }

/-- The records that Log(r) appends: `r`, or none where the log stream has no live receiver (60_exceptions.md R275). -/
def State.records (s : State) (r : LogRecord) : List LogRecord := if s.logRxLive then [r] else []

/-- `o` is the answer of a step or an instruction from s, and `o'` its answer from s with FRAMES, LOG and ST exchanged: they append
the same frames and records, leave `a` and `b` in ST, and agree in everything else. -/
def SameChange (s : State) (frames : List Frame) (log : List LogRecord) (a b : Byte) (o o' : StepOutcome) : Prop :=
  ∃ t fs ls, o = .next t ∧ t.st = a ∧ t.frames = s.frames ++ fs ∧ t.log = s.log ++ ls ∧
    o' = .next (t.exchanged b (frames ++ fs) (log ++ ls))

section Exchange
variable {s : State} {st : Byte} {frames : List Frame} {log : List LogRecord}

theorem emitLog_log_eq (s : State) (r : LogRecord) : (s.emitLog r).log = s.log ++ s.records r := by
  rw [State.emitLog_log, State.records]
  split <;> simp

theorem emitLog_exchanged (s : State) (r : LogRecord) :
    (s.exchanged st frames log).emitLog r = (s.emitLog r).exchanged st frames (log ++ s.records r) :=
  congrArg (fun l => s.exchanged st frames l) (emitLog_log_eq (s.exchanged st frames log) r)

/-! ### The shapes of an answer -/

/-- Neither stream is written. -/
theorem sameChange_of_quiet {a b : Byte} {t : State} {o' : StepOutcome} (ha : t.st = a) (hf : t.frames = s.frames)
    (hl : t.log = s.log) (h : o' = .next (t.exchanged b frames log)) : SameChange s frames log a b (.next t) o' :=
  ⟨t, [], [], rfl, ha, by simp [hf], by simp [hl], by simpa using h⟩

/-- A record is logged, and then `f` writes neither a stream nor ST. -/
theorem sameChange_of_logged (f : State → State) (r : LogRecord) (ha : (f (s.emitLog r)).st = s.st)
    (hf : (f (s.emitLog r)).frames = s.frames) (hl : (f (s.emitLog r)).log = (s.emitLog r).log)
    (h : f ((s.emitLog r).exchanged st frames (log ++ s.records r)) = (f (s.emitLog r)).exchanged st frames (log ++ s.records r)) :
    SameChange s frames log s.st st (.next (f (s.emitLog r))) (.next (f ((s.exchanged st frames log).emitLog r))) :=
  ⟨f (s.emitLog r), [], s.records r, rfl, ha, by simp [hf], hl.trans (emitLog_log_eq s r),
    by rw [emitLog_exchanged, h, List.append_nil]⟩

theorem sameChange_raiseFault (s : State) (c : FaultCode) :
    SameChange s frames log s.st st (.next (s.raiseFault c)) (.next ((s.exchanged st frames log).raiseFault c)) :=
  sameChange_of_logged (s := s.setRun (.faulted c)) id (.faultReport c s.pc) rfl rfl rfl rfl

theorem sameChange_sendFrame (s : State) :
    SameChange s frames log s.st st (.next s.sendFrame) (.next (s.exchanged st frames log).sendFrame) := by
  cases hl : s.frameRxLive with
  | true =>
    rw [sendFrame_of_live hl, sendFrame_of_live (s := s.exchanged st frames log) hl]
    exact ⟨s.emitFrame.advance, [s.fb], [], rfl, rfl, rfl, by simp, by rw [List.append_nil]; rfl⟩
  | false =>
    cases hc : s.cfg.onFrameSendFail with
    | fault =>
      rw [sendFrame_of_lost_fault hl hc, sendFrame_of_lost_fault (s := s.exchanged st frames log) hl hc]
      exact sameChange_raiseFault s _
    | logAndContinue =>
      rw [sendFrame_of_lost_continue hl hc, sendFrame_of_lost_continue (s := s.exchanged st frames log) hl hc]
      exact sameChange_of_logged State.advance (.frameSendFailed s.pc) rfl rfl rfl rfl

theorem sameChange_ite {c : Prop} [Decidable c] {a b : Byte} {o₁ o₂ o₁' o₂' : StepOutcome}
    (h₁ : SameChange s frames log a b o₁ o₁') (h₂ : SameChange s frames log a b o₂ o₂') :
    SameChange s frames log a b (if c then o₁ else o₂) (if c then o₁' else o₂') := by
  split
  · exact h₁
  · exact h₂

/-! ### Instructions -/

/-- What an instruction leaves in ST when it holds `st`: Fx18 writes V[x], and no other instruction writes it. -/
def soundAfter (s : State) (st : Byte) : Instr → Byte
  | .ldSTVx x => s.reg x
  | _ => st

theorem sameChange_exec (i : Instr) (s : State) :
    SameChange s frames log (soundAfter s s.st i) (soundAfter s st i) (exec i s) (exec i (s.exchanged st frames log)) := by
  have fault := sameChange_raiseFault (st := st) (frames := frames) (log := log) s
  cases i with
  | halt => exact sameChange_of_logged (·.setRun .halted) (.haltNotice s.pc) rfl rfl rfl rfl
  | ret => exact sameChange_ite (fault _) (sameChange_of_quiet rfl rfl rfl rfl)
  | call nnn =>
    by_cases h : s.sp.val < 16
    · rw [exec_call_of_lt nnn h, exec_call_of_lt (s := s.exchanged st frames log) nnn h]
      exact sameChange_of_quiet rfl rfl rfl rfl
    · rw [exec_call_of_full nnn h, exec_call_of_full (s := s.exchanged st frames log) nnn h]
      exact fault _
  | skp | sknp | ldRegs => exact sameChange_ite (fault _) (sameChange_of_quiet rfl rfl rfl rfl)
  | ldB | stRegs =>
    simp only [exec, execLdB_eq, execStRegs_eq]
    exact sameChange_ite (fault _) (sameChange_ite (fault _) (sameChange_of_quiet rfl rfl rfl rfl))
  | drw x y n =>
    simp only [exec, execDrw_eq]
    exact sameChange_ite (fault _) (sameChange_ite (fault _) (sameChange_ite (fault _) (sameChange_sendFrame (s.drawn x y n))))
  | _ => exact sameChange_of_quiet rfl rfl rfl rfl

/-! ### Events -/

theorem applyKey_exchanged (s : State) (e : KeyEvent) :
    (s.exchanged st frames log).applyKey e = (s.applyKey e).exchanged st frames log := by
  simp only [State.applyKey, State.exchanged]
  split <;> rfl

theorem acceptStale_exchanged (s : State) : (s.exchanged st frames log).acceptStale = s.acceptStale.exchanged st frames log := by
  simp only [State.acceptStale, State.exchanged]
  split <;> rfl

theorem stopByHost_exchanged (s : State) : (s.exchanged st frames log).stopByHost = s.stopByHost.exchanged st frames log := by
  simp only [State.stopByHost, State.exchanged]
  split <;> rfl

/-! ### Steps -/

theorem nextEvent_exchanged {u : State} {e : Event} (he : s.nextEvent = (e, u)) :
    (s.exchanged st frames log).nextEvent = (e, u.exchanged st frames log) := by
  cases h : s.sched with
  | nil =>
    rw [nextEvent_nil h] at he
    cases he
    exact nextEvent_nil h
  | cons e rest =>
    rw [nextEvent_cons h] at he
    cases he
    exact nextEvent_cons h

theorem executes_unique {i j : Instr} (hi : s.executes i) (hj : s.executes j) : i = j := by
  obtain ⟨-, -, w, hw, hd⟩ := hi
  obtain ⟨-, -, w', hw', hd'⟩ := hj
  obtain rfl := Option.some.inj (hw.symm.trans hw')
  exact Except.ok.inj (hd.symm.trans hd')

theorem step_sameChange_of_executes {i : Instr} (hi : s.executes i) :
    SameChange s frames log (soundAfter s s.st i) (soundAfter s st i) (step s) (step (s.exchanged st frames log)) := by
  obtain ⟨hev, hr, w, hf, hd⟩ := hi
  have he : s.nextEvent = (.core, s.nextEvent.2) := congrArg (·, s.nextEvent.2) hev
  rw [step_of_exec he hr hf hd, step_of_exec (s := s.exchanged st frames log) (nextEvent_exchanged he) hr hf hd]
  obtain ⟨rest, hu⟩ := sched_only he
  rw [hu]
  exact sameChange_exec i { s with sched := rest }

/-- Every other step: a failed fetch or decode logs a record, a tick lowers ST, and no other event writes it or a stream. -/
theorem step_sameChange_of_else (hx : ∀ i, ¬s.executes i) :
    SameChange s frames log (if s.nextEvent.1 = .tick then tickTimer s.st else s.st)
      (if s.nextEvent.1 = .tick then tickTimer st else st) (step s) (step (s.exchanged st frames log)) := by
  obtain ⟨t, h⟩ := step_next s
  rw [h]
  cases step_cases h with
  | executed u _ w i he hr hf hd => exact absurd ⟨congrArg Prod.fst he, hr, w, hf, hd⟩ (hx i)
  | fetchFault u he hr hf =>
    rw [step_of_fetch_none (s := s.exchanged st frames log) (nextEvent_exchanged he) hr hf, he]
    obtain ⟨rest, rfl⟩ := sched_only he
    exact sameChange_raiseFault { s with sched := rest } _
  | illegal u w r he hr hf hd =>
    rw [step_of_illegal (s := s.exchanged st frames log) (nextEvent_exchanged he) hr hf hd, he]
    obtain ⟨rest, rfl⟩ := sched_only he
    exact sameChange_of_logged (s := { s with sched := rest }) State.advance (.decodeFailure s.pc w) rfl rfl rfl rfl
  | idle _ he hr =>
    rw [step_of_not_running (s := s.exchanged st frames log) (nextEvent_exchanged he) hr, he]
    obtain ⟨rest, rfl⟩ := sched_only he
    exact sameChange_of_quiet rfl rfl rfl rfl
  | keyed u e he =>
    rw [step, nextEvent_exchanged he, he]
    obtain ⟨rest, rfl⟩ := sched_only he
    have h := applyKey_frame { s with sched := rest } e
    exact sameChange_of_quiet (congrArg State.st h :) (congrArg State.frames h :) (congrArg State.log h :)
      (congrArg _ (applyKey_exchanged _ e))
  | accepted u he =>
    rw [step, nextEvent_exchanged he, he]
    obtain ⟨rest, rfl⟩ := sched_only he
    have h := acceptStale_frame { s with sched := rest }
    exact sameChange_of_quiet (congrArg State.st h :) (congrArg State.frames h :) (congrArg State.log h :)
      (congrArg _ (acceptStale_exchanged _))
  | stopped u he =>
    rw [step, nextEvent_exchanged he, he]
    obtain ⟨rest, rfl⟩ := sched_only he
    have h := stopByHost_frame { s with sched := rest }
    exact sameChange_of_quiet (congrArg State.st h :) (congrArg State.frames h :) (congrArg State.log h :)
      (congrArg _ (stopByHost_exchanged _))
  | ticked u he | frameLost u he | logLost u he =>
    rw [step, nextEvent_exchanged he, he]
    obtain ⟨rest, rfl⟩ := sched_only he
    exact sameChange_of_quiet rfl rfl rfl rfl

end Exchange

theorem soundAfter_of_ne {i : Instr} (s : State) (st : Byte) (h : ∀ x, i ≠ .ldSTVx x) : soundAfter s st i = st := by
  cases i with
  | ldSTVx x => exact absurd rfl (h x)
  | _ => rfl

/-- Settles O59, by whether the step executes an instruction; ST goes by the instruction, or by whether the event is a tick. -/
theorem nothingReadsTheSoundTimerOrTheStreams : Obligations.NothingReadsTheSoundTimerOrTheStreams := by
  intro s t st frames log h
  by_cases hi : ∃ i, s.executes i
  · obtain ⟨i, hi⟩ := hi
    obtain ⟨t', fs, ls, ht, hst, hfs, hls, h'⟩ := step_sameChange_of_executes (st := st) (frames := frames) (log := log) hi
    cases h.symm.trans ht
    refine ⟨_, fs, ls, hfs, hls, h', fun htick => ?_, fun x hx => ?_, fun _ hne => ?_⟩
    · exact nomatch htick.symm.trans hi.1
    · obtain rfl := executes_unique hi hx
      exact ⟨rfl, hst⟩
    · have hne' : ∀ x, i ≠ .ldSTVx x := by rintro x rfl; exact hne x hi
      exact ⟨soundAfter_of_ne s st hne', hst.trans (soundAfter_of_ne s s.st hne')⟩
  · have hno := not_exists.mp hi
    obtain ⟨t', fs, ls, ht, hst, hfs, hls, h'⟩ := step_sameChange_of_else (st := st) (frames := frames) (log := log) hno
    cases h.symm.trans ht
    refine ⟨_, fs, ls, hfs, hls, h', fun htick => ?_, fun x hx => absurd hx (hno _), fun hnt _ => ?_⟩
    · rw [hst, if_pos htick, if_pos htick]
      exact ⟨tickTimer_toNat st, tickTimer_toNat s.st⟩
    · exact ⟨if_neg hnt, hst.trans (if_neg hnt)⟩

/-! ### SHIFT_SOURCE exchanged -/

/-- The state with SHIFT_SOURCE exchanged for another. -/
def State.withShiftSource (s : State) (p : ShiftSource) : State := { s with cfg := { s.cfg with shiftSource := p } }

/-- `o` and `o'` are next states that agree in everything but SHIFT_SOURCE, which is `p` in the latter. -/
def SameButSource (p : ShiftSource) (o o' : StepOutcome) : Prop := ∃ t, o = .next t ∧ o' = .next (t.withShiftSource p)

section Source
variable {p : ShiftSource} {s : State}

theorem sameButSource_next {t : State} : SameButSource p (.next t) (.next (t.withShiftSource p)) := ⟨t, rfl, rfl⟩

theorem sameButSource_ite {c : Prop} [Decidable c] {o₁ o₂ o₁' o₂' : StepOutcome} (h₁ : SameButSource p o₁ o₁')
    (h₂ : SameButSource p o₂ o₂') : SameButSource p (if c then o₁ else o₂) (if c then o₁' else o₂') := by
  split
  · exact h₁
  · exact h₂

theorem sendFrame_withShiftSource (s : State) : (s.withShiftSource p).sendFrame = s.sendFrame.withShiftSource p := by
  cases hl : s.frameRxLive with
  | true => rw [sendFrame_of_live hl, sendFrame_of_live (s := s.withShiftSource p) hl]; rfl
  | false =>
    cases hc : s.cfg.onFrameSendFail with
    | fault => rw [sendFrame_of_lost_fault hl hc, sendFrame_of_lost_fault (s := s.withShiftSource p) hl hc]; rfl
    | logAndContinue => rw [sendFrame_of_lost_continue hl hc, sendFrame_of_lost_continue (s := s.withShiftSource p) hl hc]; rfl

theorem shiftOperand_self (s : State) (x : Reg) : s.shiftOperand x x = s.reg x := if_pos rfl

theorem sameButSource_exec (i : Instr) (s : State) (h : ∀ x y, x ≠ y → i ≠ .shr x y ∧ i ≠ .shl x y) :
    SameButSource p (exec i s) (exec i (s.withShiftSource p)) := by
  cases i with
  | shr x y =>
    obtain rfl : x = y := by_contra fun hne => (h x y hne).1 rfl
    simp only [exec, execShr, shiftOperand_self]
    exact sameButSource_next
  | shl x y =>
    obtain rfl : x = y := by_contra fun hne => (h x y hne).2 rfl
    simp only [exec, execShl, shiftOperand_self]
    exact sameButSource_next
  | call nnn =>
    by_cases h : s.sp.val < 16
    · rw [exec_call_of_lt nnn h, exec_call_of_lt (s := s.withShiftSource p) nnn h]
      exact sameButSource_next
    · rw [exec_call_of_full nnn h, exec_call_of_full (s := s.withShiftSource p) nnn h]
      exact sameButSource_next
  | ret | skp | sknp | ldRegs => exact sameButSource_ite sameButSource_next sameButSource_next
  | ldB | stRegs =>
    simp only [exec, execLdB_eq, execStRegs_eq]
    exact sameButSource_ite sameButSource_next (sameButSource_ite sameButSource_next sameButSource_next)
  | drw x y n =>
    have send : SameButSource p (.next (s.drawn x y n).sendFrame) (.next ((s.drawn x y n).withShiftSource p).sendFrame) :=
      ⟨_, rfl, congrArg _ (sendFrame_withShiftSource _)⟩
    simp only [exec, execDrw_eq]
    exact sameButSource_ite sameButSource_next
      (sameButSource_ite sameButSource_next (sameButSource_ite sameButSource_next send))
  | _ => exact sameButSource_next

end Source

/-- Settles O28: only the operand of the shifts reads SHIFT_SOURCE, and with x = y it does not. -/
theorem shiftSourceMattersOnlyToShiftsOfTwoRegisters : Obligations.ShiftSourceMattersOnlyToShiftsOfTwoRegisters := by
  intro i s t p hi h
  obtain ⟨t', ht, h'⟩ := sameButSource_exec (p := p) i s hi
  cases h.symm.trans ht
  exact h'

end Sys2Proof.Machine
end

section
/-! The arithmetic instructions that write a flag (42_alu.md R145 to R151): two registers are written, and the order of the two
writes decides VF when x = 0xF (decision D10). -/

namespace Sys2Proof.Machine

/-! ### The two orders of writing -/

section Orders
variable {i : Instr} {s : State} {x : Reg} {result flag : Byte}

theorem sameRegsBut_two_writes (s : State) (x y : Reg) (b c : Byte) : SameRegsBut s ((s.setReg x b).setReg y c).advance [x, y] := by
  intro z hz
  have hx : z ≠ x := List.ne_of_not_mem_cons hz
  have hy : z ≠ y := List.ne_of_not_mem_cons (List.not_mem_of_not_mem_cons hz)
  exact (State.reg_setReg_ne _ c hy).trans (State.reg_setReg_ne s b hx)

/-- The flag is written last, so VF ends as the flag (8xy4); `P` and `Q` are what is said of the flag and of the result. -/
theorem exec_writesThenFlags (P Q : Byte → Prop) (hx : exec i s = .next (s.writeThenFlag x result flag).advance) (hP : P flag)
    (hQ : Q result) :
    ∃ t, exec i s = .next t ∧ P (t.reg vf) ∧ (x ≠ vf → Q (t.reg x)) ∧ t.pc = s.pc + 2 ∧ SameRegsBut s t [x, vf] ∧
      OnlyRegsPc s t := by
  refine ⟨_, hx, ?_, fun hne => ?_, rfl, sameRegsBut_two_writes s x vf result flag, rfl, fun _ => rfl⟩
  · exact (State.reg_setReg_same _ vf flag).symm ▸ hP
  · exact ((State.reg_setReg_ne _ flag hne).trans (State.reg_setReg_same s x result)).symm ▸ hQ

/-- The result is written last, so V[x] ends as the result and, with x = 0xF, VF too (8xy5, 8xy6, 8xy7, 8xyE). -/
theorem exec_flagsThenWrites (P Q : Byte → Prop) (hx : exec i s = .next (s.flagThenWrite x flag result).advance) (hP : P result)
    (hQ : Q flag) :
    ∃ t, exec i s = .next t ∧ P (t.reg x) ∧ (x ≠ vf → Q (t.reg vf)) ∧ t.pc = s.pc + 2 ∧ SameRegsBut s t [x, vf] ∧
      OnlyRegsPc s t := by
  refine ⟨_, hx, ?_, fun hne => ?_, rfl, fun z hz => ?_, rfl, fun _ => rfl⟩
  · exact (State.reg_setReg_same _ x result).symm ▸ hP
  · exact ((State.reg_setReg_ne _ result hne.symm).trans (State.reg_setReg_same s vf flag)).symm ▸ hQ
  · exact sameRegsBut_two_writes s vf x flag result z (by simpa [or_comm, and_comm] using hz)

end Orders

/-! ### The bytes as numbers -/

theorem byte_sub_toNat (a b : Byte) : (a - b).toNat = (a.toNat + 256 - b.toNat) % 256 := by
  rw [BitVec.toNat_sub]; omega

theorem byte_shiftRight_one_toNat (b : Byte) : (b >>> 1).toNat = b.toNat / 2 := by
  rw [BitVec.toNat_ushiftRight, Nat.shiftRight_eq_div_pow]

theorem byte_shiftLeft_one_toNat (b : Byte) : (b <<< 1).toNat = b.toNat * 2 % 256 := by
  rw [BitVec.toNat_shiftLeft, Nat.shiftLeft_eq]

/-! ### The statements -/

/-- Settles O25: 8xy4 answers the byte sum and then the carry of the exact sum. -/
theorem addWritesTheSumThenTheCarry : Obligations.AddWritesTheSumThenTheCarry := fun x y s =>
  exec_writesThenFlags (·.toNat = if (s.reg x).toNat + (s.reg y).toNat > 255 then 1 else 0)
    (·.toNat = ((s.reg x).toNat + (s.reg y).toNat) % 256) rfl (carryFlag_toNat _ _) (BitVec.toNat_add _ _)

/-- 8xy5 and 8xy7 alike: the strict comparison of the minuend `a` with the subtrahend `b`, and then their byte difference. -/
theorem exec_subtracts {i : Instr} {s : State} {x : Reg} {a b : Byte}
    (hx : exec i s = .next (s.flagThenWrite x (greaterFlag a b) (a - b)).advance) :
    ∃ t, exec i s = .next t ∧ (t.reg x).toNat = (a.toNat + 256 - b.toNat) % 256 ∧
      (x ≠ vf → (t.reg vf).toNat = if a.toNat > b.toNat then 1 else 0) ∧ t.pc = s.pc + 2 ∧ SameRegsBut s t [x, vf] ∧
      OnlyRegsPc s t :=
  exec_flagsThenWrites (·.toNat = (a.toNat + 256 - b.toNat) % 256) (·.toNat = if a.toNat > b.toNat then 1 else 0) hx
    (byte_sub_toNat a b) (greaterFlag_toNat a b)

/-- Settles O26: the two instructions differ in which operand is the minuend. -/
theorem subtractionsWriteTheFlagThenTheDifference : Obligations.SubtractionsWriteTheFlagThenTheDifference :=
  fun _ _ _ => ⟨exec_subtracts rfl, exec_subtracts rfl⟩

/-- Settles O27: with the operand that SHIFT_SOURCE names, 8xy6 answers its bit 0 and its half, 8xyE its bit 7 and its double. -/
theorem shiftsWriteTheBitOutThenTheResult : Obligations.ShiftsWriteTheBitOutThenTheResult := by
  intro x y s b hvx hvy
  obtain rfl := shiftOperand_eq (x := x) (y := y) hvx hvy
  exact ⟨exec_flagsThenWrites (·.toNat = _ / 2) (·.toNat = _ % 2) rfl (byte_shiftRight_one_toNat _) (lowBitFlag_toNat _),
    exec_flagsThenWrites (·.toNat = _ * 2 % 256) (·.toNat = _ / 128) rfl (byte_shiftLeft_one_toNat _) (highBitFlag_toNat _)⟩

end Sys2Proof.Machine
end

section
/-! The addition to the index register, the random byte, the key wait and the key skips (46_io_timer.md R212, R217;
43_index_jump_random.md R172; 45_keys.md R200 to R202). -/

namespace Sys2Proof.Machine

theorem index_add_toNat (w : Word) (b : Byte) : (w + zext16 b).toNat = (w.toNat + b.toNat) % 65536 := by
  rw [BitVec.toNat_add, zext16_toNat]

/-- Settles O30: the sum of words is the sum modulo 2^16, and I is the one register written. -/
theorem indexAddWrapsWithoutAFlag : Obligations.IndexAddWrapsWithoutAFlag :=
  fun x s => exec_writesI rfl (index_add_toNat s.i (s.reg x))

/-- Settles O31: the draw that the counter names is written under the mask, and the counter moves on by one. -/
theorem randomByteIsOneFreshDrawUnderTheMask : Obligations.RandomByteIsOneFreshDrawUnderTheMask := by
  intro x nn s
  have hreg : (s.takeDraw.setReg x (s.nextDraw &&& nn)).advance.reg x = s.nextDraw &&& nn := reg_setReg_advance_same _ x _
  exact ⟨_, rfl, fun k => by rw [hreg]; exact BitVec.getLsbD_and, rfl, rfl, sameRegsBut_setReg_advance s.takeDraw x _, rfl,
    fun _ => rfl⟩

/-- Settles O33: RUN is the one field written. -/
theorem keyWaitSuspendsTheCore : Obligations.KeyWaitSuspendsTheCore :=
  fun x s => ⟨s.setRun (.waiting x), rfl, rfl, rfl, fun _ => rfl⟩

/-! ### The key skips, by their check -/

section KeySkips
variable {s : State} {x : Reg}

theorem keyOutOfRange_eq_false {b : Byte} (h : b.toNat ≤ 15) : ¬keyOutOfRange b = true := by
  simpa [keyOutOfRange] using h

theorem keyOutOfRange_eq_true {b : Byte} (h : b.toNat > 15) : keyOutOfRange b = true := decide_eq_true h

theorem exec_skp_of_le (h : (s.reg x).toNat ≤ 15) : exec (.skp x) s = .next (s.skipIf (s.keyPressed (s.reg x))) :=
  if_neg (keyOutOfRange_eq_false h)

theorem exec_sknp_of_le (h : (s.reg x).toNat ≤ 15) : exec (.sknp x) s = .next (s.skipIf (!s.keyPressed (s.reg x))) :=
  if_neg (keyOutOfRange_eq_false h)

theorem exec_skp_of_gt (h : (s.reg x).toNat > 15) : exec (.skp x) s = .next (s.raiseFault .keyIndexOutOfRange) :=
  if_pos (keyOutOfRange_eq_true h)

theorem exec_sknp_of_gt (h : (s.reg x).toNat > 15) : exec (.sknp x) s = .next (s.raiseFault .keyIndexOutOfRange) :=
  if_pos (keyOutOfRange_eq_true h)

/-- The mask's bit as a number. -/
theorem keyPressed_eq (s : State) (k : Byte) : s.keyPressed k = decide (s.keys.mask.toNat / 2 ^ k.toNat % 2 = 1) := by
  rw [State.keyPressed, ← BitVec.testBit_toNat, Nat.testBit_eq_decide_div_mod_eq]

theorem keyPressed_of_one {k : Byte} (h : s.keys.mask.toNat / 2 ^ k.toNat % 2 = 1) : s.keyPressed k = true := by
  rw [keyPressed_eq, h]; rfl

theorem keyPressed_of_zero {k : Byte} (h : s.keys.mask.toNat / 2 ^ k.toNat % 2 = 0) : s.keyPressed k = false := by
  rw [keyPressed_eq, h]; rfl

end KeySkips

/-- Settles O34, by the check of V[x]: in range both skip by the mask's bit, out of range both raise the fault. -/
theorem keySkipsTestTheMaskBit : Obligations.KeySkipsTestTheMaskBit := by
  refine fun x s => ⟨fun h => ⟨exec_skips (exec_skp_of_le h) keyPressed_of_one keyPressed_of_zero, ?_⟩, fun h => ?_⟩
  · obtain ⟨t, hx, hpc, h4, h2⟩ := exec_skips (exec_sknp_of_le h) (fun h0 => by rw [keyPressed_of_zero h0]; rfl)
      (fun h1 => by rw [keyPressed_of_one h1]; rfl)
    exact ⟨t, hx, hpc, h2, h4⟩
  · exact ⟨⟨_, exec_skp_of_gt h, faultedFrom_raiseFault s _⟩, ⟨_, exec_sknp_of_gt h, faultedFrom_raiseFault s _⟩⟩

end Sys2Proof.Machine
end

section
/-! The transfers between registers and memory (46_io_timer.md R219 to R221): what a store in range leaves in memory, what a load
reads back, and the faults of the checks before either (20_memory.md R63, R64; decisions D4, D5). -/

namespace Sys2Proof.Machine

section Stores
variable {s : State} {x : Reg}

/-! ### The instructions, by their checks -/

theorem exec_ldB_of_range (lo : 0x50 ≤ s.i.toNat) (up : s.i.toNat + 3 ≤ 4096) :
    exec (.ldB x) s = .next (s.storeBytes s.storeAddr (bcdDigits (s.reg x))).advance := by
  refine (execLdB_eq x s).trans ?_
  rw [if_neg (by omega), if_neg (by omega)]

theorem exec_stRegs_of_range (lo : 0x50 ≤ s.i.toNat) (up : s.i.toNat + 16 ≤ 4096) :
    exec (.stRegs x) s = .next (s.storeBytes s.storeAddr s.v.toList).advance := by
  refine (execStRegs_eq x s).trans ?_
  rw [if_neg (by omega), if_neg (by omega)]

theorem exec_ldB_of_out (h : s.i.toNat + 3 > 4096) : exec (.ldB x) s = .next (s.raiseFault .memWriteOutOfRange) :=
  (execLdB_eq x s).trans (if_pos h)

theorem exec_stRegs_of_out (h : s.i.toNat + 16 > 4096) : exec (.stRegs x) s = .next (s.raiseFault .memWriteOutOfRange) :=
  (execStRegs_eq x s).trans (if_pos h)

theorem exec_ldB_of_glyph (h : s.i.toNat < 0x50) : exec (.ldB x) s = .next (s.raiseFault .glyphRegionWrite) := by
  refine (execLdB_eq x s).trans ?_
  rw [if_neg (by omega), if_pos h]

theorem exec_stRegs_of_glyph (h : s.i.toNat < 0x50) : exec (.stRegs x) s = .next (s.raiseFault .glyphRegionWrite) := by
  refine (execStRegs_eq x s).trans ?_
  rw [if_neg (by omega), if_pos h]

/-- The sixteen bytes from I on. -/
def State.bytesAtI (s : State) : Vector Byte 16 := Vector.ofFn fun k : Fin 16 => s.readByte (s.i.toNat + k.val)

theorem exec_ldRegs_of_range (up : s.i.toNat + 16 ≤ 4096) : exec (.ldRegs x) s = .next (s.setAllRegs s.bytesAtI).advance :=
  if_neg (by simpa [outOfRange] using up)

theorem exec_ldRegs_of_out (h : s.i.toNat + 16 > 4096) : exec (.ldRegs x) s = .next (s.raiseFault .memReadOutOfRange) :=
  if_pos (decide_eq_true h)

/-! ### What is stored and loaded -/

/-- Byte k of a store, as a later read of it sees it. -/
theorem readByte_store_advance (s : State) (a : Nat) {bs : List Byte} (k : Nat) (h : k < bs.length) :
    (s.storeBytes a bs).advance.readByte (a + k) = bs[k] :=
  readByte_storeBytes_inside s a k bs h

theorem toNat_ofNat_byte {n : Nat} (h : n < 256) : (BitVec.ofNat 8 n).toNat = n := by
  rw [BitVec.toNat_ofNat]; omega

theorem readByte_dump (s : State) (k : Reg) :
    (s.storeBytes s.storeAddr s.v.toList).advance.readByte (s.storeAddr + k.val) = s.reg k := by
  rw [readByte_store_advance s s.storeAddr k.val (by simp)]
  simp [State.reg]

theorem bytesAtI_getElem (s : State) (k : Nat) (hk : k < 16) : s.bytesAtI[k] = s.readByte (s.i.toNat + k) := Vector.getElem_ofFn hk

theorem onlyRegsPc_setAllRegs (s : State) (v : Vector Byte 16) : OnlyRegsPc s (s.setAllRegs v).advance := ⟨rfl, fun _ => rfl⟩

end Stores

/-! ### The statements -/

/-- Settles O35: the three bytes stored are the digits, and each digit fits a byte. -/
theorem bcdStoresThreeDigitsAtI : Obligations.BcdStoresThreeDigitsAtI := by
  intro x s lo up
  have hb := (s.reg x).isLt
  have digit (k : Nat) (hk : k < 3) := readByte_store_advance s s.storeAddr (bs := bcdDigits (s.reg x)) k hk
  refine ⟨_, exec_ldB_of_range lo up, ?_, ?_, ?_, rfl, sameMemoryOutside_store s rfl, rfl, rfl⟩
  · exact (congrArg BitVec.toNat (digit 0 (by omega))).trans (toNat_ofNat_byte (by omega))
  · exact (congrArg BitVec.toNat (digit 1 (by omega))).trans (toNat_ofNat_byte (by omega))
  · exact (congrArg BitVec.toNat (digit 2 (by omega))).trans (toNat_ofNat_byte (by omega))

/-- Settles O36: the sixteen bytes stored are the registers in their order. -/
theorem dumpStoresAllSixteenRegistersAtI : Obligations.DumpStoresAllSixteenRegistersAtI := fun _ s lo up =>
  ⟨_, exec_stRegs_of_range lo up, readByte_dump s, rfl, sameMemoryOutside_store s (regs_length s), rfl, rfl⟩

/-- Settles O37: each check fails before any write. -/
theorem storesOutOfRangeOrIntoTheGlyphsFault : Obligations.StoresOutOfRangeOrIntoTheGlyphsFault := fun _ s =>
  ⟨fun h => ⟨_, exec_ldB_of_out h, faultedFrom_raiseFault s _⟩,
    fun h => ⟨_, exec_ldB_of_glyph h, faultedFrom_raiseFault s _⟩,
    fun h => ⟨_, exec_stRegs_of_out h, faultedFrom_raiseFault s _⟩,
    fun h => ⟨_, exec_stRegs_of_glyph h, faultedFrom_raiseFault s _⟩⟩

/-- Settles O38, by the check of the range. -/
theorem loadReadsAllSixteenRegistersAtI : Obligations.LoadReadsAllSixteenRegistersAtI := fun _ s =>
  ⟨fun up => ⟨_, exec_ldRegs_of_range up, fun k => bytesAtI_getElem s k.val k.isLt, rfl, onlyRegsPc_setAllRegs s _⟩,
    fun h => ⟨_, exec_ldRegs_of_out h, faultedFrom_raiseFault s _⟩⟩

/-- Settles O39: the dump leaves I as it was, so the load reads the bytes that the dump stored. -/
theorem loadAfterDumpRestoresTheRegisters : Obligations.LoadAfterDumpRestoresTheRegisters := by
  intro x y s v lo up
  refine ⟨_, _, exec_stRegs_of_range lo up, exec_ldRegs_of_range up, Vector.ext fun k hk => ?_, BitVec.add_assoc s.pc 2 2⟩
  exact (bytesAtI_getElem _ k hk).trans (readByte_dump s ⟨k, hk⟩)

end Sys2Proof.Machine
end

section
/-! Canonical memory (20_memory.md R51): the listed bytes are the ones that differ from the initial image, so the reads determine
the list. -/

namespace Sys2Proof.Machine

variable {rom : GlyphRom} {m m' : List Host.Cell} {k a : Nat} {b : Byte}

theorem Memory.read_of_rising_above (h : Memory.rising (k + 1) m = true) (ha : a ≤ k) :
    Memory.read rom m a = Memory.unlisted rom a := by
  rw [Memory.read, Memory.lookup_below (Nat.lt_succ_of_le ha) h]; rfl

theorem Memory.read_cons_same : Memory.read rom ((k, b) :: m) k = b := by simp [Memory.read, Memory.lookup]

theorem Memory.read_cons_ne (h : a ≠ k) : Memory.read rom ((k, b) :: m) a = Memory.read rom m a := by
  simp [Memory.read, Memory.lookup, h.symm]

/-- A byte listed at the lowest address tells the list from one that rises from above that address. -/
theorem Memory.read_ne_of_first (hb : b ≠ Memory.unlisted rom k) (h : Memory.rising (k + 1) m' = true) :
    Memory.read rom ((k, b) :: m) k ≠ Memory.read rom m' k := by
  rwa [Memory.read_cons_same, Memory.read_of_rising_above h le_rfl]

theorem Memory.read_tail_eq (hr : Memory.rising (k + 1) m = true) (hr' : Memory.rising (k + 1) m' = true)
    (h : ∀ a, Memory.read rom ((k, b) :: m) a = Memory.read rom ((k, b) :: m') a) (a : Nat) :
    Memory.read rom m a = Memory.read rom m' a := by
  by_cases ha : a = k
  · rw [Memory.read_of_rising_above hr (Nat.le_of_eq ha), Memory.read_of_rising_above hr' (Nat.le_of_eq ha)]
  · have := h a
    rwa [Memory.read_cons_ne ha, Memory.read_cons_ne ha] at this

theorem Memory.rising_cons {lo : Nat} :
    Memory.rising lo ((k, b) :: m) = true ↔ lo ≤ k ∧ Memory.rising (k + 1) m = true := by
  rw [Memory.rising, Bool.and_eq_true, decide_eq_true_eq]

/-- By induction on the first list: the second has the same first address, or the lower of the two would be read differently. -/
theorem Memory.eq_of_read_eq (m : List Host.Cell) : ∀ {m' : List Host.Cell} {lo : Nat}, Memory.rising lo m = true →
    Memory.rising lo m' = true → (∀ c ∈ m, c.2 ≠ Memory.unlisted rom c.1) → (∀ c ∈ m', c.2 ≠ Memory.unlisted rom c.1) →
    (∀ a, Memory.read rom m a = Memory.read rom m' a) → m = m' := by
  induction m with
  | nil =>
    intro m' lo _ _ _ hm' h
    cases m' with
    | nil => rfl
    | cons c m' => exact absurd (h c.1).symm (Memory.read_ne_of_first (hm' c List.mem_cons_self) rfl)
  | cons c m ih =>
    intro m' lo hr hr' hm hm' h
    have hc := hm c List.mem_cons_self
    cases m' with
    | nil => exact absurd (h c.1) (Memory.read_ne_of_first hc rfl)
    | cons c' m' =>
      have hc' := hm' c' List.mem_cons_self
      obtain ⟨k, b⟩ := c
      obtain ⟨k', b'⟩ := c'
      obtain ⟨-, htail⟩ := Memory.rising_cons.mp hr
      obtain ⟨-, htail'⟩ := Memory.rising_cons.mp hr'
      obtain hlt | rfl | hgt := Nat.lt_trichotomy k k'
      · exact absurd (h k) (Memory.read_ne_of_first hc (Memory.rising_cons.mpr ⟨hlt, htail'⟩))
      · obtain rfl : b = b' := by simpa only [Memory.read_cons_same] using h k
        rw [ih htail htail' (fun c hc => hm c (List.mem_cons_of_mem _ hc)) (fun c hc => hm' c (List.mem_cons_of_mem _ hc))
          (Memory.read_tail_eq htail htail' h)]
      · exact absurd (h k').symm (Memory.read_ne_of_first hc' (Memory.rising_cons.mpr ⟨hgt, htail⟩))

/-- Settles O60: both lists rise from 0x50 on, and neither lists a byte that is as in the initial image. -/
theorem canonicalMemoriesThatReadAlikeAreEqual : Obligations.CanonicalMemoriesThatReadAlikeAreEqual := by
  intro rom m m' hm hm' h
  obtain ⟨hr, hne⟩ := Memory.wf_iff.mp hm
  obtain ⟨hr', hne'⟩ := Memory.wf_iff.mp hm'
  exact Memory.eq_of_read_eq m hr hr' (fun c hc => (hne c hc).2) (fun c hc => (hne' c hc).2) h

end Sys2Proof.Machine
end

section
/-! The draw's checks, the draw without a frame receiver, and the draw done twice (44_draw.md R184 to R186; decisions D5, D6, D14,
D16, D24). -/

namespace Sys2Proof.Machine

section Draw
variable {x y : Reg} {n : Nibble} {s t : State} {r c : Nat}

/-! ### The checks, in their order -/

theorem exec_drw_of_out (hi : s.i.toNat + n.toNat > 4096) : exec (.drw x y n) s = .next (s.raiseFault .memReadOutOfRange) :=
  (execDrw_eq x y n s).trans (if_pos hi)

theorem exec_drw_of_row_out (hi : s.i.toNat + n.toNat ≤ 4096) (hn : n.toNat > 0) (hy : (s.reg y).toNat + n.toNat > 32) :
    exec (.drw x y n) s = .next (s.raiseFault .drawRowOutOfRange) := by
  refine (execDrw_eq x y n s).trans ?_
  rw [if_neg (by omega), if_pos ⟨hn, hy⟩]

theorem exec_drw_of_column_out (hi : s.i.toNat + n.toNat ≤ 4096) (hn : n.toNat > 0) (hy : (s.reg y).toNat + n.toNat ≤ 32)
    (hx : (s.reg x).toNat > 63) : exec (.drw x y n) s = .next (s.raiseFault .drawColumnOutOfRange) := by
  refine (execDrw_eq x y n s).trans ?_
  rw [if_neg (by omega), if_neg (by omega), if_pos ⟨hn, hx⟩]

/-! ### A draw with a receiver -/

theorem exec_drw_of_live (h : drawInRange s x y n) (hl : s.frameRxLive = true) :
    exec (.drw x y n) s = .next (s.drawn x y n).emitFrame.advance :=
  (exec_drw_of_inRange h).trans (congrArg _ (sendFrame_of_live hl))

theorem toNat_reg_vf_drawn (s : State) (x y : Reg) (n : Nibble) :
    ((s.drawn x y n).reg vf).toNat = if (s.drawSprite x y n).2 = true then 1 else 0 :=
  (congrArg BitVec.toNat reg_vf_drawn).trans (flagByte_toNat _)

/-! ### The same draw from a state with the same operands -/

/-- What the draw reads besides the framebuffer: I, V[x], V[y] and memory. -/
def SameSprite (s t : State) (x y : Reg) : Prop := t.i = s.i ∧ t.reg x = s.reg x ∧ t.reg y = s.reg y ∧ SameMemory s t

theorem SameSprite.inRange (h : SameSprite s t x y) (hr : drawInRange s x y n) : drawInRange t x y n := by
  obtain ⟨hi, hx, hy, -⟩ := h
  unfold drawInRange at *
  rwa [hi, hx, hy]

theorem SameSprite.spritePixel_eq (h : SameSprite s t x y) : spritePixel t x y n r c = spritePixel s x y n r c := by
  obtain ⟨hi, hx, hy, hm⟩ := h
  unfold spritePixel
  rw [hi, hx, hy, hm]

/-- The draw writes VF alone of the registers, so with x and y other than 0xF it leaves its own operands. -/
theorem sameSprite_drawn (hx : x ≠ vf) (hy : y ≠ vf) : SameSprite s (s.drawn x y n).emitFrame.advance x y :=
  ⟨rfl, sameRegsBut_drawn x (List.mem_singleton.not.mpr hx), sameRegsBut_drawn y (List.mem_singleton.not.mpr hy), fun _ => rfl⟩

/-- Flipping the same pixels a second time gives back the framebuffer. -/
theorem SameSprite.drawSprite_fb_eq (h : SameSprite s t x y) (hr : drawInRange s x y n) (hfb : t.fb = (s.drawSprite x y n).1) :
    (t.drawSprite x y n).1 = s.fb := by
  refine frame_ext fun r c _ hc => ?_
  rw [drawSprite_pixel (h.inRange hr) hc, hfb, drawSprite_pixel hr hc, h.spritePixel_eq]
  simp

end Draw

/-! ### The statements -/

/-- Settles O41: each check is reached when the ones before it pass. -/
theorem drawChecksInOrder : Obligations.DrawChecksInOrder := fun _ _ _ s =>
  ⟨fun hi => ⟨_, exec_drw_of_out hi, faultedFrom_raiseFault s _⟩,
    fun hi hn hy => ⟨_, exec_drw_of_row_out hi hn hy, faultedFrom_raiseFault s _⟩,
    fun hi hn hy hx => ⟨_, exec_drw_of_column_out hi hn hy hx, faultedFrom_raiseFault s _⟩⟩

/-- Settles O42: FB and VF are written before the receiver is looked at, and the frame send does not write them. -/
theorem drawWithoutAReceiverFollowsTheParameter : Obligations.DrawWithoutAReceiverFollowsTheParameter := by
  intro x y n s h hlost
  have hfb := congrArg State.fb (sendFrame_frame (s.drawn x y n))
  have hv := congrArg State.v (sendFrame_frame (s.drawn x y n))
  have live := exec_drw_of_live (s := { s with frameRxLive := true }) h rfl
  exact ⟨_, _, exec_drw_of_inRange h, live, hfb, hv, sendFrame_of_lost_fault (s := s.drawn x y n) hlost,
    sendFrame_of_lost_continue (s := s.drawn x y n) hlost⟩

/-- Settles O43: the second draw has the first one's sprite, so it flips the same pixels back, and it erases those that the first
turned on. -/
theorem drawTwiceRestoresTheFramebuffer : Obligations.DrawTwiceRestoresTheFramebuffer := by
  intro x y n s h hlive hx hy
  have same := sameSprite_drawn (n := n) (s := s) hx hy
  have hback := same.drawSprite_fb_eq h rfl
  have hvf := toNat_reg_vf_drawn (s.drawn x y n).emitFrame.advance x y n
  have hhit := drawSprite_hit_iff_erases (same.inRange h)
  rw [hback] at hhit
  refine ⟨_, _, exec_drw_of_live h hlive, exec_drw_of_live (same.inRange h) hlive, hback, fun hon => ?_, fun hoff => ?_, ?_⟩
  · obtain ⟨r, c, hoff, hon⟩ := hon
    exact hvf.trans (if_pos (hhit.mpr ⟨r, c, hon, hoff⟩))
  · refine hvf.trans (if_neg fun hits => hoff ?_)
    obtain ⟨r, c, hon, hoff⟩ := hhit.mp hits
    exact ⟨r, c, hoff, hon⟩
  · refine (List.append_assoc s.frames [_] [_]).trans ?_
    exact congrArg (fun f => s.frames ++ [(s.drawSprite x y n).1, f]) hback

end Sys2Proof.Machine
end

section
/-! The state at reset and after boot (10_state.md R37; 70_reset_and_hazards.md R300 to R304). -/

namespace Sys2Proof.Machine

/-! ### Memory with nothing listed -/

theorem readByte_resetWith_glyph (p : Params) {a : Nat} (h : a < 80) : (State.resetWith p).readByte a = p.glyphRom[a] :=
  readByte_glyph (inv_resetWith p) h

theorem readByte_resetWith_zero (p : Params) {a : Nat} (h : 80 ≤ a) : (State.resetWith p).readByte a = 0 :=
  dif_neg (by omega)

/-! ### The statements -/

/-- Settles O44: the vectors are constant, memory lists nothing, and the two glyph tables are compared byte by byte. -/
theorem resetState : Obligations.ResetState := by
  intro p
  exact ⟨fun x => Vector.getElem_replicate x.isLt, rfl, rfl, rfl, fun k => Vector.getElem_replicate k.isLt, rfl, rfl,
    fun _ => readByte_resetWith_glyph p, fun _ => readByte_resetWith_zero p, fbRow_clear,
    rfl, rfl, rfl, rfl, rfl, rfl, rfl, rfl, rfl, rfl, rfl, by decide⟩

/-- Settles O45: the ROM is one store of its bytes at 0x200, above the glyphs. -/
theorem bootLoadsTheRomOrFails : Obligations.BootLoadsTheRomOrFails := by
  refine fun p rom => ⟨fun h => ⟨_, boot_of_fits p h, ?glyphs, ?rom, ?zeros, rfl, rfl⟩, boot_of_too_large p, rfl⟩
  case glyphs => exact fun _ => readByte_glyph (inv_booted p h)
  case rom => exact fun k => readByte_storeBytes_inside (State.resetWith p) 0x200 k rom
  case zeros =>
    exact fun a h80 hout =>
      (readByte_storeBytes_outside (State.resetWith p) 0x200 a rom hout).trans (readByte_resetWith_zero p h80)

end Sys2Proof.Machine
end
